-- ==== Sys2Proof/Word.lean ====
section
/-!
DEFINITION. The word types of visviva/chip8 CORE (`00_scope.md` R11, R14): every register value, memory byte and timer
is an unsigned quantity of a fixed width, and no quantity is ever signed.
-/

namespace Sys2Proof

/-- An 8-bit value: a general register, a memory byte, a timer, the stack pointer (`00_scope.md` R11). -/
abbrev Byte := BitVec 8

/-- A 16-bit value: `I`, `PC`, a stack entry, an instruction word (`00_scope.md` R11). -/
abbrev Word := BitVec 16

/-- The number of a general register, 0..15 (`10_state.md` R21). -/
abbrev Reg := Fin 16

end Sys2Proof
end

