-- ==== Sys2Proof/Config.lean ====
section
/-!
DEFINITION. What is fixed for the machine (`00_scope.md` R11) and the three values the spec leaves open
(`00_scope.md` R12, `92_eei_decisions.md` D2, D10, D13). An open value is a constant with no body: nothing in Lean can
evaluate it, so whatever is proved holds for every value of it.
-/

namespace Sys2Proof

/-- `MEM_SIZE`: bytes of memory, addresses 0..4095. -/
@[simp] abbrev Config.memSize : Nat := 4096

/-- `PROG_BASE`: the load address of a program and the reset value of `PC`. -/
@[simp] abbrev Config.progBase : Nat := 0x200

/-- `PROG_MAX`: the longest program, `4096 - 0x200` bytes. -/
@[simp] abbrev Config.progMax : Nat := 3584

/-- `FONT_BASE`: the address of the first font byte. -/
@[simp] abbrev Config.fontBase : Nat := 0x50

/-- `FONT_SIZE`: 16 glyphs of 5 bytes. -/
@[simp] abbrev Config.fontSize : Nat := 80

/-- The highest address at which a whole instruction word lies in memory (`40_step_driver.md` R121). -/
@[simp] abbrev Config.lastFetch : Nat := 0x0FFE

/-- The highest legal memory address (`20_memory.md` R60). -/
@[simp] abbrev Config.lastByte : Nat := 4095

/-- FREE VALUE, `rnd` (`10_state.md` R35, D2; assumption 3): the byte the random source supplies for draw number `k`.
Nothing constrains it, not even its relation to another draw. -/
opaque Config.randomByte : Nat → Byte

/-- FREE VALUE, `FONT[0..79]` (`20_memory.md` R64, D10; assumption 4): the font byte number `k`, used for `k < 80` only. -/
opaque Config.font : Nat → Byte

/-- FREE VALUE, `PIXEL_W` (`10_state.md` R34, D13; assumption 5): the width of an exported pixel. No rule depends on it. -/
opaque Config.pixelW : Nat

/-- The default table of `20_memory.md` R64, glyphs 0 to 7. PRESUMED: the spec marks it general knowledge (G1). -/
def Config.defaultGlyphsLow : List Byte :=
  [0xF0, 0x90, 0x90, 0x90, 0xF0] ++ [0x20, 0x60, 0x20, 0x20, 0x70] ++
  [0xF0, 0x10, 0xF0, 0x80, 0xF0] ++ [0xF0, 0x10, 0xF0, 0x10, 0xF0] ++
  [0x90, 0x90, 0xF0, 0x10, 0x10] ++ [0xF0, 0x80, 0xF0, 0x10, 0xF0] ++
  [0xF0, 0x80, 0xF0, 0x90, 0xF0] ++ [0xF0, 0x10, 0x20, 0x40, 0x40]

/-- The default table of `20_memory.md` R64, glyphs 8 to F. PRESUMED: the spec marks it general knowledge (G1). -/
def Config.defaultGlyphsHigh : List Byte :=
  [0xF0, 0x90, 0xF0, 0x90, 0xF0] ++ [0xF0, 0x90, 0xF0, 0x10, 0xF0] ++
  [0xF0, 0x90, 0xF0, 0x90, 0x90] ++ [0xE0, 0x90, 0xE0, 0x90, 0xE0] ++
  [0xF0, 0x80, 0x80, 0x80, 0xF0] ++ [0xE0, 0x90, 0x90, 0x90, 0xE0] ++
  [0xF0, 0x80, 0xF0, 0x80, 0xF0] ++ [0xF0, 0x80, 0xF0, 0x80, 0x80]

/-- The default font of `20_memory.md` R64. -/
def Config.defaultFont : List Byte := Config.defaultGlyphsLow ++ Config.defaultGlyphsHigh

/-- The hypothesis "the font is the default table". A claim that reads a glyph byte names it (`91_not_in_source.md` N2);
the model itself never uses it. -/
def Config.FontIsDefault : Prop :=
  ∀ k, k < 80 → Config.font k = Config.defaultFont.getD k 0

end Sys2Proof
end

