-- ==== Sys2Proof/WellFormed.lean ====
section
/-!
DEFINITION. Which terms of `Instr` the encoding can express. Every register number, constant and address is legal in
every instruction (`30_encoding.md` R93, R101), so the types carry all checks but one: a no-op names an unassigned
selector (R99).
-/

namespace Sys2Proof

/-- The selector values with no handler (`30_encoding.md` R95 to R99). -/
def NopSelector.unassigned : NopSelector → Bool
  | .low0 n => n != 0x0 && n != 0xE
  | .low8 n => decide (0x8 ≤ n.toNat) && n != 0xE
  | .lowE n => n != 0x1 && n != 0xE
  | .lowF kk => kk != 0x07 && kk != 0x0A && kk != 0x15 && kk != 0x18 && kk != 0x1E && kk != 0x29 && kk != 0x33 &&
      kk != 0x55 && kk != 0x65

/-- An instruction some word encodes. -/
def Instr.wellFormed : Instr → Bool
  | .cls => true
  | .ret => true
  | .jp _ => true
  | .call _ => true
  | .seImm _ _ => true
  | .sneImm _ _ => true
  | .seReg _ _ => true
  | .ldImm _ _ => true
  | .addImm _ _ => true
  | .ldReg _ _ => true
  | .orReg _ _ => true
  | .andReg _ _ => true
  | .xorReg _ _ => true
  | .addReg _ _ => true
  | .subReg _ _ => true
  | .shr _ _ => true
  | .subn _ _ => true
  | .shl _ _ => true
  | .sneReg _ _ => true
  | .ldI _ => true
  | .jpV0 _ => true
  | .rnd _ _ => true
  | .drw _ _ _ => true
  | .skp _ => true
  | .sknp _ => true
  | .ldVxDt _ => true
  | .ldVxK _ => true
  | .ldDtVx _ => true
  | .ldStVx _ => true
  | .addI _ => true
  | .ldF _ => true
  | .ldB _ => true
  | .storeRegs _ => true
  | .loadRegs _ => true
  | .nop sel => sel.unassigned

end Sys2Proof
end

