-- ==== Sys2Proof/Decode.lean ====
section
/-!
DEFINITION. Decoding (`30_encoding.md` R91 to R103), total on any bytes, and the encoder, written from the same
encodings (R92, R105).
-/

namespace Sys2Proof

/-! ### The fields of a word (`30_encoding.md` R91) -/

/-- The primary nibble, bits 15..12. -/
def fieldP (w : Word) : BitVec 4 := w.extractLsb' 12 4

/-- The register number `x`, bits 11..8. -/
def fieldX (w : Word) : Reg := (w.extractLsb' 8 4).toFin

/-- The register number `y`, bits 7..4. -/
def fieldY (w : Word) : Reg := (w.extractLsb' 4 4).toFin

/-- The low nibble, bits 3..0. -/
def fieldN (w : Word) : BitVec 4 := w.extractLsb' 0 4

/-- The low byte, bits 7..0. -/
def fieldKk (w : Word) : BitVec 8 := w.extractLsb' 0 8

/-- The low 12 bits. -/
def fieldNnn (w : Word) : BitVec 12 := w.extractLsb' 0 12

/-! ### The two-level lookup -/

/-- Family 0 (`30_encoding.md` R95): only the low nibble selects. -/
def decodeFamily0 (w : Word) : Instr :=
  match fieldN w with
  | 0x0#4 => .cls
  | 0xE#4 => .ret
  | n => .nop (.low0 n)

/-- Family 8 (`30_encoding.md` R96). -/
def decodeFamily8 (w : Word) : Instr :=
  match fieldN w with
  | 0x0#4 => .ldReg (fieldX w) (fieldY w)
  | 0x1#4 => .orReg (fieldX w) (fieldY w)
  | 0x2#4 => .andReg (fieldX w) (fieldY w)
  | 0x3#4 => .xorReg (fieldX w) (fieldY w)
  | 0x4#4 => .addReg (fieldX w) (fieldY w)
  | 0x5#4 => .subReg (fieldX w) (fieldY w)
  | 0x6#4 => .shr (fieldX w) (fieldY w)
  | 0x7#4 => .subn (fieldX w) (fieldY w)
  | 0xE#4 => .shl (fieldX w) (fieldY w)
  | n => .nop (.low8 n)

/-- Family E (`30_encoding.md` R97): only the low nibble selects. -/
def decodeFamilyE (w : Word) : Instr :=
  match fieldN w with
  | 0xE#4 => .skp (fieldX w)
  | 0x1#4 => .sknp (fieldX w)
  | n => .nop (.lowE n)

/-- Family F (`30_encoding.md` R98): the whole low byte selects. -/
def decodeFamilyF (w : Word) : Instr :=
  match fieldKk w with
  | 0x07#8 => .ldVxDt (fieldX w)
  | 0x0A#8 => .ldVxK (fieldX w)
  | 0x15#8 => .ldDtVx (fieldX w)
  | 0x18#8 => .ldStVx (fieldX w)
  | 0x1E#8 => .addI (fieldX w)
  | 0x29#8 => .ldF (fieldX w)
  | 0x33#8 => .ldB (fieldX w)
  | 0x55#8 => .storeRegs (fieldX w)
  | 0x65#8 => .loadRegs (fieldX w)
  | kk => .nop (.lowF kk)

/-- The decoder of a word (`30_encoding.md` R94, R103). It is total (R101): the last arm is `p = 0xF`. -/
def decodeWord (w : Word) : Instr :=
  match fieldP w with
  | 0x0#4 => decodeFamily0 w
  | 0x1#4 => .jp (fieldNnn w)
  | 0x2#4 => .call (fieldNnn w)
  | 0x3#4 => .seImm (fieldX w) (fieldKk w)
  | 0x4#4 => .sneImm (fieldX w) (fieldKk w)
  | 0x5#4 => .seReg (fieldX w) (fieldY w)
  | 0x6#4 => .ldImm (fieldX w) (fieldKk w)
  | 0x7#4 => .addImm (fieldX w) (fieldKk w)
  | 0x8#4 => decodeFamily8 w
  | 0x9#4 => .sneReg (fieldX w) (fieldY w)
  | 0xA#4 => .ldI (fieldNnn w)
  | 0xB#4 => .jpV0 (fieldNnn w)
  | 0xC#4 => .rnd (fieldX w) (fieldKk w)
  | 0xD#4 => .drw (fieldX w) (fieldY w) (fieldN w)
  | 0xE#4 => decodeFamilyE w
  | _ => decodeFamilyF w

/-! ### Bytes -/

/-- Why a string of bytes does not decode. A whole word always does (`30_encoding.md` R101). -/
inductive DecodeError where
  /-- there is no byte at all -/
  | noBytes
  /-- there is only the high byte of a word (`30_encoding.md` R90: every instruction is two bytes) -/
  | halfWord
  deriving DecidableEq, Repr

/-- A word from its two bytes, high byte first (`20_memory.md` R66). -/
def wordOfBytes (hi lo : Byte) : Word := hi ++ lo

/-- The high byte of a word, the one at the lower address. -/
def highByte (w : Word) : Byte := w.extractLsb' 8 8

/-- The low byte of a word. -/
def lowByte (w : Word) : Byte := w.extractLsb' 0 8

/-- The decoder of a byte string: the first instruction and the bytes after it. -/
def decodeBytes : List Byte → Except DecodeError (Instr × List Byte)
  | hi :: lo :: rest => .ok (decodeWord (wordOfBytes hi lo), rest)
  | [_] => .error .halfWord
  | [] => .error .noBytes

/-! ### The encoder -/

/-- Format `NNN`: `pppp nnnn nnnn nnnn` (`30_encoding.md` R92). -/
def formatNnn (p : BitVec 4) (nnn : BitVec 12) : Word := p ++ nnn

/-- Formats `XKK` and `XS`: `pppp xxxx kkkk kkkk` (`30_encoding.md` R92). -/
def formatXkk (p : BitVec 4) (x : Reg) (kk : BitVec 8) : Word := p ++ BitVec.ofFin (w := 4) x ++ kk

/-- Format `XYN`: `pppp xxxx yyyy nnnn` (`30_encoding.md` R92). -/
def formatXyn (p : BitVec 4) (x y : Reg) (n : BitVec 4) : Word :=
  p ++ BitVec.ofFin (w := 4) x ++ BitVec.ofFin (w := 4) y ++ n

/-- The canonical word of an instruction (`30_encoding.md` R105). A no-op has no canonical word in the spec: the encoder
gives the `match` word of its row of `opcode_table.json` (DESIGN CHOICE, assumption 10). -/
def encode : Instr → Word
  | .cls => 0x00E0
  | .ret => 0x00EE
  | .jp nnn => formatNnn 0x1 nnn
  | .call nnn => formatNnn 0x2 nnn
  | .seImm x kk => formatXkk 0x3 x kk
  | .sneImm x kk => formatXkk 0x4 x kk
  | .seReg x y => formatXyn 0x5 x y 0x0
  | .ldImm x kk => formatXkk 0x6 x kk
  | .addImm x kk => formatXkk 0x7 x kk
  | .ldReg x y => formatXyn 0x8 x y 0x0
  | .orReg x y => formatXyn 0x8 x y 0x1
  | .andReg x y => formatXyn 0x8 x y 0x2
  | .xorReg x y => formatXyn 0x8 x y 0x3
  | .addReg x y => formatXyn 0x8 x y 0x4
  | .subReg x y => formatXyn 0x8 x y 0x5
  | .shr x y => formatXyn 0x8 x y 0x6
  | .subn x y => formatXyn 0x8 x y 0x7
  | .shl x y => formatXyn 0x8 x y 0xE
  | .sneReg x y => formatXyn 0x9 x y 0x0
  | .ldI nnn => formatNnn 0xA nnn
  | .jpV0 nnn => formatNnn 0xB nnn
  | .rnd x kk => formatXkk 0xC x kk
  | .drw x y n => formatXyn 0xD x y n
  | .skp x => formatXkk 0xE x 0x9E
  | .sknp x => formatXkk 0xE x 0xA1
  | .ldVxDt x => formatXkk 0xF x 0x07
  | .ldVxK x => formatXkk 0xF x 0x0A
  | .ldDtVx x => formatXkk 0xF x 0x15
  | .ldStVx x => formatXkk 0xF x 0x18
  | .addI x => formatXkk 0xF x 0x1E
  | .ldF x => formatXkk 0xF x 0x29
  | .ldB x => formatXkk 0xF x 0x33
  | .storeRegs x => formatXkk 0xF x 0x55
  | .loadRegs x => formatXkk 0xF x 0x65
  | .nop (.low0 n) => formatXyn 0x0 0 0 n
  | .nop (.low8 n) => formatXyn 0x8 0 0 n
  | .nop (.lowE n) => formatXyn 0xE 0 0 n
  | .nop (.lowF kk) => formatXkk 0xF 0 kk

/-- The bytes of an instruction in memory order, high byte first (`20_memory.md` R66). -/
def encodeBytes (i : Instr) : List Byte := [highByte (encode i), lowByte (encode i)]

/-! ### The opcode map (`30_encoding.md` R105), to hold the decoder against -/

/-- One line of the opcode map: the word `w` is the instruction's when `w &&& mask = pattern`. -/
structure OpcodeRow where
  line : Nat
  mask : Word
  pattern : Word
  deriving DecidableEq, Repr

/-- Lines 1 to 9: families 0 to 7. -/
def opcodeRowsLow : List OpcodeRow :=
  [⟨1, 0xF00F, 0x0000⟩, ⟨2, 0xF00F, 0x000E⟩, ⟨3, 0xF000, 0x1000⟩, ⟨4, 0xF000, 0x2000⟩, ⟨5, 0xF000, 0x3000⟩,
   ⟨6, 0xF000, 0x4000⟩, ⟨7, 0xF000, 0x5000⟩, ⟨8, 0xF000, 0x6000⟩, ⟨9, 0xF000, 0x7000⟩]

/-- Lines 10 to 18: family 8. -/
def opcodeRowsAlu : List OpcodeRow :=
  [⟨10, 0xF00F, 0x8000⟩, ⟨11, 0xF00F, 0x8001⟩, ⟨12, 0xF00F, 0x8002⟩, ⟨13, 0xF00F, 0x8003⟩, ⟨14, 0xF00F, 0x8004⟩,
   ⟨15, 0xF00F, 0x8005⟩, ⟨16, 0xF00F, 0x8006⟩, ⟨17, 0xF00F, 0x8007⟩, ⟨18, 0xF00F, 0x800E⟩]

/-- Lines 19 to 25: families 9 to E. -/
def opcodeRowsMid : List OpcodeRow :=
  [⟨19, 0xF000, 0x9000⟩, ⟨20, 0xF000, 0xA000⟩, ⟨21, 0xF000, 0xB000⟩, ⟨22, 0xF000, 0xC000⟩, ⟨23, 0xF000, 0xD000⟩,
   ⟨24, 0xF00F, 0xE00E⟩, ⟨25, 0xF00F, 0xE001⟩]

/-- Lines 26 to 34: family F. -/
def opcodeRowsF : List OpcodeRow :=
  [⟨26, 0xF0FF, 0xF007⟩, ⟨27, 0xF0FF, 0xF00A⟩, ⟨28, 0xF0FF, 0xF015⟩, ⟨29, 0xF0FF, 0xF018⟩, ⟨30, 0xF0FF, 0xF01E⟩,
   ⟨31, 0xF0FF, 0xF029⟩, ⟨32, 0xF0FF, 0xF033⟩, ⟨33, 0xF0FF, 0xF055⟩, ⟨34, 0xF0FF, 0xF065⟩]

/-- Lines 1 to 34 of `30_encoding.md` R105. -/
def opcodeTable : List OpcodeRow := opcodeRowsLow ++ opcodeRowsAlu ++ opcodeRowsMid ++ opcodeRowsF

/-- The line of R105 a word falls on: the row it matches, or line 35 (the no-op) where it matches none. -/
def tableLine (w : Word) : Nat :=
  ((opcodeTable.find? (fun r => w &&& r.mask == r.pattern)).map OpcodeRow.line).getD 35

/-! ### The host's entry -/

/-- What the decoder reads from an instruction whose bits are `w`, bit 0 the least significant bit of the one 16-bit word,
the bits at and above `nbits` taken as 0 (assumption 23). -/
def decodeTableWord (nbits w : Nat) : Option Instr :=
  let word : Word := BitVec.ofNat 16 (w % 2 ^ nbits)
  match decodeBytes [highByte word, lowByte word] with
  | .ok (i, _) => some i
  | .error _ => none

end Sys2Proof
end

