-- ==== Sys2Proof/Machine/State.lean ====
section
/-!
DEFINITION. The state of the machine (`10_state.md` R20) as plain data, its reasons to stop, and the state after reset
(`70_reset_and_hazards.md` R290).
-/

namespace Sys2Proof.Machine

/-- The causes of a fault (`60_exceptions.md` R253). Raising one is a NEXT state: the latch is set and the core is halted
(R252), so no step of this machine ends in an outcome `fault` (assumption 1). Each is safe: a program that reaches one
proves nothing about the wrap, mask or value another implementation may choose (R251). -/
inductive Fault where
  /-- code 1: raised by the fetch when `PC > 0x0FFE` (R254); safe -/
  | fetchOob
  /-- code 2: raised by `2nnn` when `SP >= 16` (R255); safe -/
  | stackOverflow
  /-- code 3: raised by `00EE` when `SP = 0` or `SP > 16` (R256); safe -/
  | stackUnderflow
  /-- code 4: raised by `Dxyn`, `Fx33`, `Fx55`, `Fx65` when a byte address is above 4095 (R257); safe -/
  | memOob
  /-- code 5: raised by `Ex9E`, `ExA1` when `V[x] > 15` (R258); safe -/
  | keyOob
  deriving DecidableEq, Repr

/-- Why the model gives no meaning. -/
inductive Refusal where
  /-- an instruction with no meaning yet; raised by an arm of `exec`; no arm raises it any more; safe -/
  | notModelled (mnemonic : String)
  /-- raised by the host event `load_program` with `length > 3584` bytes (`70_reset_and_hazards.md` R293, D17): the spec
  gives it no meaning and says a model refuses it; no instruction raises it; safe -/
  | programTooLong (length : Nat)
  deriving DecidableEq, Repr

/-- Memory: the bytes that differ from their reset contents, addresses strictly rising (`20_memory.md` R60; assumption 9).
Its operations are in Ops. -/
abbrev Memory := List Host.Cell

/-- The display buffer: 32 rows of 64 cells, true = on (`10_state.md` R34). -/
abbrev Display := Vector (Vector Bool 64) 32

/-- The state of the core: `10_state.md` R20, and one field of the model's own (`draws`). -/
structure State where
  /-- `V[0..15]`; `V[15]` is also the flag output (R21, R22) -/
  v : Vector Byte 16
  /-- `I` (R23) -/
  i : Word
  /-- `PC` (R24) -/
  pc : Word
  /-- `stack[0..15]` (R25) -/
  stack : Vector Word 16
  /-- `SP` (R26) -/
  sp : Byte
  /-- `DT` (R27) -/
  dt : Byte
  /-- `ST` (R28) -/
  st : Byte
  /-- `key[0..15]`, true = pressed (R32) -/
  key : Vector Bool 16
  /-- `IR` (R33; assumption 7) -/
  ir : Word
  /-- `fb[0..31][0..63]` (R34) -/
  fb : Display
  /-- `mem[0..4095]` (R37) -/
  mem : Memory
  /-- `FLT`: the core has faulted and is halted (R36) -/
  flt : Bool
  /-- `FCAUSE` (R36) -/
  fcause : BitVec 4
  /-- `FVAL` (R36) -/
  fval : Word
  /-- `FPC` (R36) -/
  fpc : Word
  /-- the model's own: how many random bytes were consumed; the next is `Config.randomByte draws` (assumption 3) -/
  draws : Nat
  deriving DecidableEq, Repr

/-- What a step, a meaning or a host event answers. -/
abbrev Result := Host.Outcome State Fault Refusal

/-- The state after reset (`70_reset_and_hazards.md` R290): memory with nothing listed is zero but for the font. `SP`,
`key`, `IR` and the latch are the spec's decisions D11 and D4 (assumption 6); `draws` is DESIGN CHOICE 0 (assumption 3). -/
def State.reset : State where
  v := Vector.replicate 16 0
  i := 0
  pc := 0x0200
  stack := Vector.replicate 16 0
  sp := 0
  dt := 0
  st := 0
  key := Vector.replicate 16 false
  ir := 0
  fb := Vector.replicate 32 (Vector.replicate 64 false)
  mem := []
  flt := false
  fcause := 0
  fval := 0
  fpc := 0
  draws := 0

end Sys2Proof.Machine
end

