-- ==== Sys2Proof/Machine/Flags.lean ====
section
/-!
DEFINITION. The values instructions write to `V[0xF]` (`10_state.md` R22), and the 8-bit arithmetic beside them
(`43_alu_8.md` R180). A flag is the byte 1 or 0.
-/

namespace Sys2Proof.Machine

/-- A boolean as a byte (`00_scope.md` R14). -/
def flagByte (b : Bool) : Byte := if b then 1 else 0

/-- `8xy4`: 1 if the true sum exceeds 255 (`43_alu_8.md` R175). -/
def carryFlag (a b : Byte) : Byte := flagByte (decide (a.toNat + b.toNat > 255))

/-- `8xy5`, `8xy7`: 1 if the minuend is strictly greater than the subtrahend (`43_alu_8.md` R176, R178). -/
def greaterFlag (a b : Byte) : Byte := flagByte (decide (a.toNat > b.toNat))

/-- `8xy6`: bit 0, the bit shifted out (`43_alu_8.md` R177). -/
def lowBitFlag (a : Byte) : Byte := a &&& 1

/-- `8xyE`: bit 7, the bit shifted out (`43_alu_8.md` R179). -/
def highBitFlag (a : Byte) : Byte := (a &&& 0x80) >>> 7

/-- A sum modulo 256, computed exactly and then narrowed (`43_alu_8.md` R180). -/
def addBytes (a b : Byte) : Byte := BitVec.ofNat 8 ((a.toNat + b.toNat) % 256)

/-- A difference modulo 256 (`43_alu_8.md` R180: subtraction wraps below 0 by adding 256). -/
def subBytes (a b : Byte) : Byte := BitVec.ofNat 8 ((a.toNat + 256 - b.toNat) % 256)

end Sys2Proof.Machine
end

