-- ==== Sys2Proof/Machine/Ops.lean ====
section
/-!
DEFINITION. The operations on memory and registers, taking a fault (`60_exceptions.md` R252), the fetch, the tick and the
commit of a step (`40_step_driver.md` R120 to R126).
-/

namespace Sys2Proof.Machine

/-! ### Memory (`20_memory.md` R60 to R70; assumption 9) -/

/-- What an unlisted address reads as: the reset contents (`20_memory.md` R61), zero but for the font. -/
def unlistedByte (a : Nat) : Byte :=
  if Config.fontBase ≤ a ∧ a < Config.fontBase + Config.fontSize then Config.font (a - Config.fontBase) else 0

/-- The byte at address `a`. -/
def Memory.read : Memory → Nat → Byte
  | [], a => unlistedByte a
  | (b, u) :: rest, a => if a = b then u else Memory.read rest a

/-- The memory with byte `u` at address `a`, in canonical form. -/
def Memory.write : Memory → Nat → Byte → Memory
  | [], a, u => if u = unlistedByte a then [] else [(a, u)]
  | (b, w) :: rest, a, u =>
    if a < b then (if u = unlistedByte a then (b, w) :: rest else (a, u) :: (b, w) :: rest)
    else if a = b then (if u = unlistedByte a then rest else (a, u) :: rest)
    else (b, w) :: Memory.write rest a u

/-- Bytes stored at rising addresses from `a`, one after another. -/
def Memory.writeBytes (m : Memory) (a : Nat) : List Byte → Memory
  | [] => m
  | u :: us => Memory.writeBytes (m.write a u) (a + 1) us

/-- `n` bytes read at rising addresses from `a`. -/
def Memory.readBytes (m : Memory) (a : Nat) : Nat → List Byte
  | 0 => []
  | n + 1 => m.read a :: Memory.readBytes m (a + 1) n

/-- The canonical form above address `lo`: addresses rising and inside the 4096 bytes, no entry at its reset contents. -/
def Memory.wfFrom : Nat → Memory → Bool
  | _, [] => true
  | lo, (b, u) :: rest =>
    decide (lo ≤ b) && decide (b < Config.memSize) && decide (u ≠ unlistedByte b) && Memory.wfFrom (b + 1) rest

/-- The canonical form of memory. -/
def Memory.wf (m : Memory) : Bool := Memory.wfFrom 0 m

/-! ### Reading and writing the state (`00_scope.md` R15) -/

/-- `V[x]`. -/
def State.reg (s : State) (x : Reg) : Byte := s.v[x]

/-- `V[x] <- b`. -/
def State.setReg (s : State) (x : Reg) (b : Byte) : State := { s with v := s.v.set x b }

/-- `I <- w`. -/
def State.setI (s : State) (w : Word) : State := { s with i := w }

/-- `pc <- w`. -/
def State.setPc (s : State) (w : Word) : State := { s with pc := w }

/-- `DT <- b`. -/
def State.setDt (s : State) (b : Byte) : State := { s with dt := b }

/-- `ST <- b`. -/
def State.setSt (s : State) (b : Byte) : State := { s with st := b }

/-- The display replaced. -/
def State.setFb (s : State) (f : Display) : State := { s with fb := f }

/-- The memory replaced. -/
def State.setMem (s : State) (m : Memory) : State := { s with mem := m }

/-- The register file replaced. -/
def State.setRegs (s : State) (v : Vector Byte 16) : State := { s with v := v }

/-- One random byte consumed (`44_family_9_to_D.md` R193). -/
def State.countDraw (s : State) : State := { s with draws := s.draws + 1 }

/-- The byte of memory at address `a`. -/
def State.readByte (s : State) (a : Nat) : Byte := s.mem.read a

/-- `fb[r][c]`. -/
def State.cell (s : State) (r : Fin 32) (c : Fin 64) : Bool := s.fb[r][c]

/-- Skip the next instruction if `c`: 2 more on the advanced `PC` (`40_step_driver.md` R122). -/
def State.skipIf (c : Bool) (s : State) : State := if c then s.setPc (s.pc + 2) else s

/-- `stack[SP] <- ret; SP <- SP + 1; pc <- target` (`42_flow_skip_imm.md` R151). -/
def State.pushAndJump (s : State) (h : s.sp.toNat < 16) (target : Word) : State :=
  { s with stack := s.stack.set s.sp.toNat s.pc h, sp := s.sp + 1, pc := target }

/-- `SP <- SP - 1; pc <- stack[SP]` (`41_family_0.md` R141). -/
def State.popAndJump (s : State) (h : 1 ≤ s.sp.toNat ∧ s.sp.toNat ≤ 16) : State :=
  { s with sp := s.sp - 1, pc := s.stack[s.sp.toNat - 1] }

/-! ### Faults (`60_exceptions.md` R252) -/

/-- The cause code (`60_exceptions.md` R253). -/
def Fault.code : Fault → BitVec 4
  | .fetchOob => 1
  | .stackOverflow => 2
  | .stackUnderflow => 3
  | .memOob => 4
  | .keyOob => 5

/-- `raise Fault(cause, val)` in a step that began with `PC = pc0`: the latch is set, `PC` stands at `pc0`. No instruction
has written anything before its check, so what is left of the step is the fetch's `IR` and `PC`; `State.commit` discards
the rest of the step. There is no handler, no vector, and no return but `reset` (R261). -/
def raiseFault (cause : Fault) (val : Nat) (pc0 : Word) (s : State) : State :=
  { s with pc := pc0, flt := true, fcause := cause.code, fval := BitVec.ofNat 16 (val % 65536), fpc := pc0 }

/-- `raise Fault(cause, val)` by an executing instruction, whose own address is 2 below the advanced `PC`
(`40_step_driver.md` R122; assumption 8). -/
def raiseHere (cause : Fault) (val : Nat) (s : State) : State := raiseFault cause val (s.pc - 2) s

/-- The latch of `t` on the rest of `s`. -/
def State.withLatchOf (s t : State) : State :=
  { s with flt := t.flt, fcause := t.fcause, fval := t.fval, fpc := t.fpc }

/-- The latch as reset leaves it. -/
def State.clearLatch (s : State) : State := { s with flt := false, fcause := 0, fval := 0, fpc := 0 }

/-! ### The parts of a step (`40_step_driver.md` R120) -/

/-- Whether a byte of the word at `PC` lies above address 4095 (`40_step_driver.md` R121). -/
def State.fetchOutOfRange (s : State) : Bool := decide (s.pc.toNat > Config.lastFetch)

/-- The word at `PC`, big-endian (`20_memory.md` R66). -/
def State.fetchWord (s : State) : Word := wordOfBytes (s.readByte s.pc.toNat) (s.readByte (s.pc.toNat + 1))

/-- The state an instruction executes in: `IR` holds the word and `PC` is advanced by 2 (`40_step_driver.md` R120, R122). -/
def State.fetched (s : State) : State := { s with ir := s.fetchWord, pc := s.pc + 2 }

/-- A nonzero timer is decremented; 0 stays 0 (`10_state.md` R29). -/
def tickTimer (b : Byte) : Byte := if b.toNat > 0 then b - 1 else b

/-- The tick (`40_step_driver.md` R124). -/
def State.tick (s : State) : State := { s with dt := tickTimer s.dt, st := tickTimer s.st }

/-- The end of a step that began in `s` and whose instruction left `t`: it commits and ticks, or it faulted and nothing
of it is kept but the latch (`00_scope.md` R17, `60_exceptions.md` R252). -/
def State.commit (s t : State) : State := if t.flt then s.withLatchOf t else t.tick

end Sys2Proof.Machine
end

