-- ==== Sys2Proof/Machine/Operands.lean ====
section
/-!
DEFINITION. The operand forms: zero-extended immediates (`30_encoding.md` R93), memory at `I` plus a small offset
(`20_memory.md` R68, R69), key numbers (`45_keypad_E.md`), decimal digits and glyph addresses (`46_family_F.md`).
-/

namespace Sys2Proof.Machine

/-- `zext_16` of a 12-bit address. -/
def zextAddr (nnn : BitVec 12) : Word := nnn.setWidth 16

/-- `zext_16` of a byte. -/
def zextByte (b : Byte) : Word := b.setWidth 16

/-- The address of byte `k` of a block at `I`: an unbounded sum, never wrapped or masked (`20_memory.md` R69). -/
def State.indexAddr (s : State) (k : Nat) : Nat := s.i.toNat + k

/-- Whether a block of `len` bytes at `I` stays inside memory. A block of no bytes always does (`60_exceptions.md` R257,
`44_family_9_to_D.md` R194). -/
def State.blockFits (s : State) (len : Nat) : Bool :=
  decide (len = 0) || decide (s.indexAddr (len - 1) ≤ Config.lastByte)

/-- The registers `V[0]..V[x]` in order (`46_family_F.md` R227). -/
def State.regsUpTo (s : State) (x : Reg) : List Byte := s.v.toList.take (x.val + 1)

/-- `V[i] <- mem[a + i]` for `i` in `0..n-1`, ascending (`46_family_F.md` R228). -/
def loadAscending (m : Memory) (a : Nat) : Nat → Vector Byte 16 → Vector Byte 16
  | 0, v => v
  | n + 1, v => (loadAscending m a n v).setIfInBounds n (m.read (a + n))

/-- The hundreds, tens and ones of a byte (`46_family_F.md` R226). -/
def decimalDigits (b : Byte) : List Byte :=
  [BitVec.ofNat 8 (b.toNat / 100), BitVec.ofNat 8 ((b.toNat / 10) % 10), BitVec.ofNat 8 (b.toNat % 10)]

/-- `0x50 + 5*V[x]`, the whole byte, not masked (`46_family_F.md` R225). -/
def glyphAddr (b : Byte) : Word := BitVec.ofNat 16 (Config.fontBase + 5 * b.toNat)

/-- The least pressed key, if any (`46_family_F.md` R221). -/
def State.lowestKey (s : State) : Option (Fin 16) := (List.finRange 16).find? (fun k => s.key[k])

/-- A key number as a byte. -/
def keyByte (k : Fin 16) : Byte := BitVec.ofNat 8 k.val

/-- The random byte of this draw, a free value (`10_state.md` R35; assumption 3). -/
def State.randomNow (s : State) : Byte := Config.randomByte s.draws

end Sys2Proof.Machine
end

