-- ==== Sys2Proof/Machine/Alu.lean ====
section
/-!
DEFINITION. Family 8: register-to-register arithmetic and logic (`43_alu_8.md`). The flag-writing instructions run their
two statements in the written order (R170, D7; assumption 16): `V[0xF]` gets the flag, then the operands are read again
for the result. `8xy4` alone computes its sum first.
-/

namespace Sys2Proof.Machine

/-- `8xy0` LD Vx, Vy (R171). -/
def execLdReg (x y : Reg) (s : State) : Result := .next (s.setReg x (s.reg y))

/-- `8xy1` OR Vx, Vy (R172). -/
def execOrReg (x y : Reg) (s : State) : Result := .next (s.setReg x (s.reg x ||| s.reg y))

/-- `8xy2` AND Vx, Vy (R173). -/
def execAndReg (x y : Reg) (s : State) : Result := .next (s.setReg x (s.reg x &&& s.reg y))

/-- `8xy3` XOR Vx, Vy (R174). -/
def execXorReg (x y : Reg) (s : State) : Result := .next (s.setReg x (s.reg x ^^^ s.reg y))

/-- `8xy4` ADD Vx, Vy (R175): the sum is of the values before the step. -/
def execAddReg (x y : Reg) (s : State) : Result :=
  .next ((s.setReg 0xF (carryFlag (s.reg x) (s.reg y))).setReg x (addBytes (s.reg x) (s.reg y)))

/-- The statement `V[x] <- (V[a] - V[b]) % 256` in the state the flag write left. -/
def State.subInto (s : State) (x a b : Reg) : State := s.setReg x (subBytes (s.reg a) (s.reg b))

/-- `8xy5` SUB Vx, Vy (R176). -/
def execSubReg (x y : Reg) (s : State) : Result :=
  .next ((s.setReg 0xF (greaterFlag (s.reg x) (s.reg y))).subInto x x y)

/-- The statement `V[x] <- V[x] >> 1` in the state the flag write left. -/
def State.shiftRight (s : State) (x : Reg) : State := s.setReg x (s.reg x >>> 1)

/-- `8xy6` SHR Vx (R177): `y` is ignored. -/
def execShr (x _y : Reg) (s : State) : Result := .next ((s.setReg 0xF (lowBitFlag (s.reg x))).shiftRight x)

/-- `8xy7` SUBN Vx, Vy (R178). -/
def execSubn (x y : Reg) (s : State) : Result :=
  .next ((s.setReg 0xF (greaterFlag (s.reg y) (s.reg x))).subInto x y x)

/-- The statement `V[x] <- (V[x] << 1) % 256` in the state the flag write left. -/
def State.shiftLeft (s : State) (x : Reg) : State := s.setReg x (s.reg x <<< 1)

/-- `8xyE` SHL Vx (R179): `y` is ignored. -/
def execShl (x _y : Reg) (s : State) : Result := .next ((s.setReg 0xF (highBitFlag (s.reg x))).shiftLeft x)

end Sys2Proof.Machine
end

