-- ==== Sys2Proof/Machine/Display.lean ====
section
/-!
DEFINITION. The display controller's two commands (`60_exceptions.md` R265): clear and the XOR draw
(`44_family_9_to_D.md` R195).
-/

namespace Sys2Proof.Machine

/-- Every cell off (`41_family_0.md` R140). -/
def blankDisplay : Display := Vector.replicate 32 (Vector.replicate 64 false)

/-- The row of sprite row `row` drawn from `y0`: modulo 32. -/
def drawRow (y0 : Byte) (row : Nat) : Fin 32 := Fin.ofNat 32 (y0.toNat + row)

/-- The column of sprite column `col` drawn from `x0`: modulo 64. -/
def drawCol (x0 : Byte) (col : Nat) : Fin 64 := Fin.ofNat 64 (x0.toNat + col)

/-- One cell toggled. -/
def toggleCell (f : Display) (r : Fin 32) (c : Fin 64) : Display := f.set r (f[r].set c (!f[r][c]))

/-- One bit of a sprite row: bit 7 is column 0 (`92_eei_decisions.md` D8; assumption 17). A set bit toggles its cell and
records a collision if the cell was on; a clear bit does nothing. -/
def drawBit (x0 y0 : Byte) (row : Nat) (b : Byte) (acc : Display × Bool) (col : Nat) : Display × Bool :=
  if b.getLsbD (7 - col) then
    (toggleCell acc.1 (drawRow y0 row) (drawCol x0 col), acc.2 || acc.1[drawRow y0 row][drawCol x0 col])
  else acc

/-- The eight bits of a sprite row, column 0 first. -/
def drawByte (x0 y0 : Byte) (row : Nat) (b : Byte) (acc : Display × Bool) : Display × Bool :=
  [0, 1, 2, 3, 4, 5, 6, 7].foldl (drawBit x0 y0 row b) acc

/-- Sprite rows from row number `row` on. -/
def drawRows (x0 y0 : Byte) : Nat → List Byte → Display × Bool → Display × Bool
  | _, [], acc => acc
  | row, b :: bs, acc => drawRows x0 y0 (row + 1) bs (drawByte x0 y0 row b acc)

/-- `draw_sprite(x0, y0, rows)`: the display after the draw, and whether any cell went from on to off
(`44_family_9_to_D.md` R195). -/
def drawSprite (x0 y0 : Byte) (rows : List Byte) (f : Display) : Display × Bool := drawRows x0 y0 0 rows (f, false)

end Sys2Proof.Machine
end

