-- ==== Sys2Proof/Machine/Family0.lean ====
section
/-!
DEFINITION. Family 0: clear the display and return (`41_family_0.md`).
-/

namespace Sys2Proof.Machine

/-- `00E0` CLS (R140). -/
def execCls (s : State) : Result := .next (s.setFb blankDisplay)

/-- `00EE` RET (R141): pops `PC`, or raises `STACK_UNDERFLOW`. -/
def execRet (s : State) : Result :=
  if h : 1 ≤ s.sp.toNat ∧ s.sp.toNat ≤ 16 then .next (s.popAndJump h)
  else .next (raiseHere .stackUnderflow s.sp.toNat s)

end Sys2Proof.Machine
end

