-- ==== Sys2Proof/Machine/FlowImm.lean ====
section
/-!
DEFINITION. Families 1 to 7: jump, call, skips, load and add immediate (`42_flow_skip_imm.md`).
-/

namespace Sys2Proof.Machine

/-- `1nnn` JP nnn (R150). -/
def execJp (nnn : BitVec 12) (s : State) : Result := .next (s.setPc (zextAddr nnn))

/-- `2nnn` CALL nnn (R151): pushes the advanced `PC`, or raises `STACK_OVERFLOW`. -/
def execCall (nnn : BitVec 12) (s : State) : Result :=
  if h : s.sp.toNat < 16 then .next (s.pushAndJump h (zextAddr nnn))
  else .next (raiseHere .stackOverflow s.sp.toNat s)

/-- `3xkk` SE Vx, kk (R152). -/
def execSeImm (x : Reg) (kk : BitVec 8) (s : State) : Result := .next (s.skipIf (s.reg x == kk))

/-- `4xkk` SNE Vx, kk (R153). -/
def execSneImm (x : Reg) (kk : BitVec 8) (s : State) : Result := .next (s.skipIf (s.reg x != kk))

/-- `5xy0` SE Vx, Vy (R154). -/
def execSeReg (x y : Reg) (s : State) : Result := .next (s.skipIf (s.reg x == s.reg y))

/-- `6xkk` LD Vx, kk (R155). -/
def execLdImm (x : Reg) (kk : BitVec 8) (s : State) : Result := .next (s.setReg x kk)

/-- `7xkk` ADD Vx, kk (R156): no flag. -/
def execAddImm (x : Reg) (kk : BitVec 8) (s : State) : Result := .next (s.setReg x (addBytes (s.reg x) kk))

end Sys2Proof.Machine
end

