-- ==== Sys2Proof/Machine/IndexDraw.lean ====
section
/-!
DEFINITION. Families 9 to D: skip, load index, indexed jump, random byte, sprite draw (`44_family_9_to_D.md`).
-/

namespace Sys2Proof.Machine

/-- `9xy0` SNE Vx, Vy (R190). -/
def execSneReg (x y : Reg) (s : State) : Result := .next (s.skipIf (s.reg x != s.reg y))

/-- `Annn` LD I, nnn (R191). -/
def execLdI (nnn : BitVec 12) (s : State) : Result := .next (s.setI (zextAddr nnn))

/-- `Bnnn` JP V0, nnn (R192): always `V[0]`, not masked to 12 bits. -/
def execJpV0 (nnn : BitVec 12) (s : State) : Result := .next (s.setPc (zextByte (s.reg 0) + zextAddr nnn))

/-- `Cxkk` RND Vx, kk (R193): one random byte, a free value, is consumed. -/
def execRnd (x : Reg) (kk : BitVec 8) (s : State) : Result := .next (s.countDraw.setReg x (s.randomNow &&& kk))

/-- The draw itself, its block known to lie in memory: the coordinates are read before the flag is written (R194). -/
def State.drawAndFlag (s : State) (x y : Reg) (n : Nat) : State :=
  let drawn := drawSprite (s.reg x) (s.reg y) (s.mem.readBytes (s.indexAddr 0) n) s.fb
  (s.setFb drawn.1).setReg 0xF (flagByte drawn.2)

/-- `Dxyn` DRW Vx, Vy, n (R194): draws, or raises `MEM_OOB` having drawn nothing. -/
def execDrw (x y : Reg) (n : BitVec 4) (s : State) : Result :=
  if s.blockFits n.toNat then .next (s.drawAndFlag x y n.toNat)
  else .next (raiseHere .memOob s.i.toNat s)

end Sys2Proof.Machine
end

