-- ==== Sys2Proof/Machine/Keypad.lean ====
section
/-!
DEFINITION. Family E: the keypad skips (`45_keypad_E.md`). A key number above 15 raises `KEY_OOB`, it is not masked
(D5; assumption 19).
-/

namespace Sys2Proof.Machine

/-- `Ex9E` SKP Vx (R210). -/
def execSkp (x : Reg) (s : State) : Result :=
  if h : (s.reg x).toNat < 16 then .next (s.skipIf s.key[(s.reg x).toNat])
  else .next (raiseHere .keyOob (s.reg x).toNat s)

/-- `ExA1` SKNP Vx (R211). -/
def execSknp (x : Reg) (s : State) : Result :=
  if h : (s.reg x).toNat < 16 then .next (s.skipIf (!s.key[(s.reg x).toNat]))
  else .next (raiseHere .keyOob (s.reg x).toNat s)

end Sys2Proof.Machine
end

