-- ==== Sys2Proof/Machine/NoOp.lean ====
section
/-!
DEFINITION. The no-op of every unassigned word (`40_step_driver.md` R127).
-/

namespace Sys2Proof.Machine

/-- `NOP`: nothing; the step still advances `PC` and ticks (R127). Its selector is ignored. -/
def execNop (_sel : NopSelector) (s : State) : Result := .next s

end Sys2Proof.Machine
end

