-- ==== Sys2Proof/Machine/TimerBlock.lean ====
section
/-!
DEFINITION. Family F: timers, key wait, index arithmetic, font, decimal digits, block store and load (`46_family_F.md`).
-/

namespace Sys2Proof.Machine

/-- `Fx07` LD Vx, DT (R220): the value before this step's tick. -/
def execLdVxDt (x : Reg) (s : State) : Result := .next (s.setReg x s.dt)

/-- `Fx0A` LD Vx, K (R221): the least pressed key, or back to this instruction. -/
def execLdVxK (x : Reg) (s : State) : Result :=
  match s.lowestKey with
  | some k => .next (s.setReg x (keyByte k))
  | none => .next (s.setPc (s.pc - 2))

/-- `Fx15` LD DT, Vx (R222). -/
def execLdDtVx (x : Reg) (s : State) : Result := .next (s.setDt (s.reg x))

/-- `Fx18` LD ST, Vx (R223). -/
def execLdStVx (x : Reg) (s : State) : Result := .next (s.setSt (s.reg x))

/-- `Fx1E` ADD I, Vx (R224): modulo 65536, no flag, no 12-bit mask. -/
def execAddI (x : Reg) (s : State) : Result := .next (s.setI (s.i + zextByte (s.reg x)))

/-- `Fx29` LD F, Vx (R225). -/
def execLdF (x : Reg) (s : State) : Result := .next (s.setI (glyphAddr (s.reg x)))

/-- `Fx33` LD B, Vx (R226): stores three digits, or raises `MEM_OOB` having stored nothing. -/
def execLdB (x : Reg) (s : State) : Result :=
  if s.blockFits 3 then .next (s.setMem (s.mem.writeBytes (s.indexAddr 0) (decimalDigits (s.reg x))))
  else .next (raiseHere .memOob s.i.toNat s)

/-- `Fx55` LD [I], Vx (R227): stores `V[0]..V[x]`, or raises `MEM_OOB` having stored nothing; `I` is not changed. -/
def execStoreRegs (x : Reg) (s : State) : Result :=
  if s.blockFits (x.val + 1) then .next (s.setMem (s.mem.writeBytes (s.indexAddr 0) (s.regsUpTo x)))
  else .next (raiseHere .memOob s.i.toNat s)

/-- `Fx65` LD Vx, [I] (R228): loads `V[0]..V[x]`, or raises `MEM_OOB` having loaded nothing; `I` is not changed. -/
def execLoadRegs (x : Reg) (s : State) : Result :=
  if s.blockFits (x.val + 1) then .next (s.setRegs (loadAscending s.mem (s.indexAddr 0) (x.val + 1) s.v))
  else .next (raiseHere .memOob s.i.toNat s)

end Sys2Proof.Machine
end

