-- ==== Sys2Proof/Machine/Step.lean ====
section
/-!
DEFINITION. The step (`40_step_driver.md` R120) and the host's way to place an instruction.
-/

namespace Sys2Proof.Machine

/-- `step`: a halted core does nothing (R126); a fetch above 4095 raises `FETCH_OOB` (R121); else fetch, advance `PC`,
execute, and commit with the tick or discard. The byte `rnd` of the spec's `step(rnd)` is the free value an executing
`Cxkk` draws (assumption 3). -/
def step (s : State) : Host.Outcome State Fault Refusal :=
  if s.flt then .next s
  else if s.fetchOutOfRange then .next (raiseFault .fetchOob s.pc.toNat s.pc s)
  else
    match exec (decodeWord s.fetchWord) s.fetched with
    | .next t => .next (s.commit t)
    | .fault r => .fault r
    | .refused r => .refused r

/-- The address an instruction is placed at: where `PC` stands, or the program base where no word can be fetched there
(assumption 15). -/
def State.placeAt (s : State) : Word := if s.fetchOutOfRange then BitVec.ofNat 16 Config.progBase else s.pc

/-- `s` with the word `w` (the bits at and above `nbits` taken as 0) in memory where the next step fetches. A halted core
is made to run again, for it fetches nothing (assumption 15). -/
def State.withFetchWord (s : State) (nbits w : Nat) : State :=
  let word : Word := BitVec.ofNat 16 (w % 2 ^ nbits)
  let ready := if s.flt then s.clearLatch else s
  { ready with pc := s.placeAt, mem := s.mem.writeBytes s.placeAt.toNat [highByte word, lowByte word] }

end Sys2Proof.Machine
end

