-- ==== Sys2Proof/Machine/Interface.lean ====
section
/-!
DEFINITION. The core's interface to its surroundings (`00_scope.md` R10): the host's and the input collaborator's events,
which fall between steps only (R9, D1), and the observations.
-/

namespace Sys2Proof.Machine

/-- `set_key(k, b)` (`10_state.md` R32). -/
def State.setKey (s : State) (k : Fin 16) (b : Bool) : State := { s with key := s.key.set k b }

/-- `load_program(bytes)` (`70_reset_and_hazards.md` R293): a copy to 0x200 and nothing else; a string above 3584 bytes is
refused (D17; assumption 13). -/
def State.loadProgram (s : State) (bytes : List Byte) : Result :=
  if bytes.length ≤ Config.progMax then .next (s.setMem (s.mem.writeBytes Config.progBase bytes))
  else .refused (.programTooLong bytes.length)

/-- `reset` (`70_reset_and_hazards.md` R290), at any time between steps. The draw count goes on, so that no random byte
after the reset is tied to one before it (assumption 12). -/
def State.hostReset (s : State) : State := { State.reset with draws := s.draws }

/-- `sound_on` (`10_state.md` R31). -/
def State.soundOn (s : State) : Bool := decide (s.st.toNat > 0)

/-- The exported value of a cell: all ones or all zeros, `PIXEL_W` bits wide (`00_scope.md` R12). -/
def pixelOf (b : Bool) : BitVec Config.pixelW := if b then BitVec.allOnes Config.pixelW else 0

/-- `fb` as the host reads it: the flat row-major array of 2048 cells (`10_state.md` R34). -/
def State.frameBuffer (s : State) : List (BitVec Config.pixelW) :=
  s.fb.toList.flatMap (fun row => row.toList.map pixelOf)

/-- `fault`: cause, value and address, when the core is halted (`10_state.md` R36). -/
def State.faultReport (s : State) : Option (BitVec 4 × Word × Word) :=
  if s.flt then some (s.fcause, s.fval, s.fpc) else none

/-- The events of `00_scope.md` R10. -/
inductive Event where
  | reset
  | loadProgram (bytes : List Byte)
  | setKey (k : Fin 16) (b : Bool)
  | step
  deriving DecidableEq, Repr

/-- What an event does. -/
def State.apply (s : State) : Event → Result
  | .reset => .next s.hostReset
  | .loadProgram bytes => s.loadProgram bytes
  | .setKey k b => .next (s.setKey k b)
  | .step => Sys2Proof.Machine.step s

/-- A totally ordered string of events (D1), up to the first that is refused. -/
def State.applyAll (s : State) : List Event → Result
  | [] => .next s
  | e :: es =>
    match s.apply e with
    | .next t => t.applyAll es
    | .fault r => .fault r
    | .refused r => .refused r

end Sys2Proof.Machine
end

