-- ==== Sys2Proof/Safety.lean ====
section
/-!
DEFINITION. What claims are stated in: the invariant of the machine, frames, faulted results, safe and finished runs.
-/

namespace Sys2Proof.Machine

/-- The latch is coherent: all zero while the core runs (`10_state.md` R36); a cause of `60_exceptions.md` R253 with
`FPC = PC` while it is halted (R252). -/
def State.LatchOk (s : State) : Prop :=
  (s.flt = false → s.fcause = 0 ∧ s.fval = 0 ∧ s.fpc = 0) ∧
  (s.flt = true → 1 ≤ s.fcause.toNat ∧ s.fcause.toNat ≤ 5 ∧ s.fpc = s.pc)

/-- The invariant of the machine: memory is canonical and inside its 4096 bytes; `SP` is 0..16 (`10_state.md` R26); every
return address is at most 0x1000 (`42_flow_skip_imm.md` R151); `PC` is at most 0x10FE (`44_family_9_to_D.md` R192), so that
no `PC` arithmetic ever wraps (`10_state.md` R24); the latch is coherent. -/
structure State.Inv (s : State) : Prop where
  memory : s.mem.wf = true
  sp : s.sp.toNat ≤ 16
  stack : ∀ k : Fin 16, s.stack[k].toNat ≤ 0x1000
  pc : s.pc.toNat ≤ 0x10FE
  latch : s.LatchOk

/-- What an instruction may change. A piece of state not named here stays as it was. -/
structure Touches where
  regs : List Reg := []
  bytes : List Nat := []
  i : Bool := false
  pc : Bool := false
  stackEntries : List (Fin 16) := []
  sp : Bool := false
  dt : Bool := false
  st : Bool := false
  fb : Bool := false
  draws : Bool := false

/-- The frame: from `s` to `t` nothing changes but what `m` names. `IR`, the keypad and the fault latch never do. Memory is
compared through the read of one byte. -/
structure Frame (m : Touches) (s t : State) : Prop where
  regs : ∀ r, r ∉ m.regs → t.reg r = s.reg r
  bytes : ∀ a, a ∉ m.bytes → t.readByte a = s.readByte a
  i : m.i = false → t.i = s.i
  pc : m.pc = false → t.pc = s.pc
  stack : ∀ k : Fin 16, k ∉ m.stackEntries → t.stack[k] = s.stack[k]
  sp : m.sp = false → t.sp = s.sp
  dt : m.dt = false → t.dt = s.dt
  st : m.st = false → t.st = s.st
  fb : m.fb = false → t.fb = s.fb
  draws : m.draws = false → t.draws = s.draws
  key : t.key = s.key
  ir : t.ir = s.ir
  latch : t.flt = s.flt ∧ t.fcause = s.fcause ∧ t.fval = s.fval ∧ t.fpc = s.fpc

/-- `t` is `s` with a fault taken by the instruction 2 below `PC`: the latch written, `PC` back at the instruction, and
nothing else changed (`60_exceptions.md` R252). -/
def Faulted (code : BitVec 4) (val : Word) (s t : State) : Prop :=
  t = { s with pc := s.pc - 2, flt := true, fcause := code, fval := val, fpc := s.pc - 2 }

/-- The faults instructions raise, as the table of `60_exceptions.md` R253 to R258 gives them: the cause code and the
offending value, or nothing where the instruction's check passes or it has none. -/
def faultTable (s : State) : Instr → Option (BitVec 4 × Nat)
  | .call _ => if 16 ≤ s.sp.toNat then some (2, s.sp.toNat) else none
  | .ret => if s.sp.toNat = 0 ∨ 16 < s.sp.toNat then some (3, s.sp.toNat) else none
  | .drw _ _ n => if 0 < n.toNat ∧ 4095 < s.i.toNat + n.toNat - 1 then some (4, s.i.toNat) else none
  | .ldB _ => if 4095 < s.i.toNat + 2 then some (4, s.i.toNat) else none
  | .storeRegs x => if 4095 < s.i.toNat + x.val then some (4, s.i.toNat) else none
  | .loadRegs x => if 4095 < s.i.toNat + x.val then some (4, s.i.toNat) else none
  | .skp x => if 15 < (s.reg x).toNat then some (5, (s.reg x).toNat) else none
  | .sknp x => if 15 < (s.reg x).toNat then some (5, (s.reg x).toNat) else none
  | .cls | .jp _ | .seImm _ _ | .sneImm _ _ | .seReg _ _ | .ldImm _ _ | .addImm _ _ | .ldReg _ _ | .orReg _ _ => none
  | .andReg _ _ | .xorReg _ _ | .addReg _ _ | .subReg _ _ | .shr _ _ | .subn _ _ | .shl _ _ | .sneReg _ _ => none
  | .ldI _ | .jpV0 _ | .rnd _ _ | .ldVxDt _ | .ldVxK _ | .ldDtVx _ | .ldStVx _ | .addI _ | .ldF _ | .nop _ => none

/-- The general registers an instruction may write: its destination, and `V[0xF]` for the six instructions of
`10_state.md` R22 that report a flag there. -/
def writesRegs : Instr → List Reg
  | .ldImm x _ | .addImm x _ | .ldReg x _ | .orReg x _ | .andReg x _ | .xorReg x _ | .rnd x _ => [x]
  | .addReg x _ | .subReg x _ | .shr x _ | .subn x _ | .shl x _ => [x, 0xF]
  | .drw _ _ _ => [0xF]
  | .ldVxDt x | .ldVxK x => [x]
  | .loadRegs x => (List.finRange 16).filter (fun r => decide (r ≤ x))
  | .cls | .ret | .jp _ | .call _ | .seImm _ _ | .sneImm _ _ | .seReg _ _ | .sneReg _ _ | .ldI _ | .jpV0 _ => []
  | .skp _ | .sknp _ | .ldDtVx _ | .ldStVx _ | .addI _ | .ldF _ | .ldB _ | .storeRegs _ | .nop _ => []

/-- Cell (r, c) is under a set bit of the sprite of `height` rows drawn from column `x0`, row `y0`
(`44_family_9_to_D.md` R195): coordinates wrap on each axis, and bit 7 of a row is its column 0. -/
def SpriteCovers (x0 y0 : Byte) (height : Nat) (rowByte : Nat → Byte) (r : Fin 32) (c : Fin 64) : Prop :=
  ∃ row col : Nat, row < height ∧ col < 8 ∧ (rowByte row).getLsbD (7 - col) = true ∧
    r.val = (y0.toNat + row) % 32 ∧ c.val = (x0.toNat + col) % 64

/-- A run of `k` steps in which the core never halts: the safe runs. -/
def SafeRun : Nat → State → Prop
  | 0, s => s.flt = false
  | k + 1, s => s.flt = false ∧ ∃ t, step s = .next t ∧ SafeRun k t

/-- The state after `k` steps, if every one answers a next state. -/
def stepsTo : Nat → State → State → Prop
  | 0, s, t => t = s
  | k + 1, s, t => ∃ u, step s = .next u ∧ stepsTo k u t

/-- The notion of a finished program that `70_reset_and_hazards.md` R296 offers: a jump to itself, both timers 0, not
halted. A faulted state is never final. -/
def State.Final (s : State) : Prop :=
  s.flt = false ∧ s.dt = 0 ∧ s.st = 0 ∧ s.pc.toNat ≤ Config.lastFetch ∧
    ∃ nnn : BitVec 12, decodeWord s.fetchWord = .jp nnn ∧ zextAddr nnn = s.pc

end Sys2Proof.Machine
end

