-- ==== Sys2Proof/Certificates/Slice0/Obligations.lean ====
section
/-!
DEFINITION. The statements about the machine. `exec i s` is instruction `i` in the state the fetch left, so `s.pc` is the
instruction's address plus 2 (`40_step_driver.md` R120, R122). `t.reg r`, `t.readByte a`, `t.cell r c` read one register,
byte and cell; `Frame m s t` says that nothing but what `m` names changed.
-/

open Sys2Proof Sys2Proof.Machine

/-! ### The step -/

/-- A step of a running core whose bytes at `PC` decode to `i` runs exactly `i` on the fetched state, and then either keeps
only the fault latch or commits with the tick (`40_step_driver.md` R120; that a fault is a next state with the latch set is
assumption 1, from the spec's decisions D3 and D4). -/
def Obligations.StepRunsDecodedInstruction : Prop :=
  ∀ (s : State) (i : Instr), s.flt = false → s.pc.toNat ≤ 0x0FFE →
    decodeBytes [s.readByte s.pc.toNat, s.readByte (s.pc.toNat + 1)] = .ok (i, []) →
    ∃ t, exec i { s with ir := s.readByte s.pc.toNat ++ s.readByte (s.pc.toNat + 1), pc := s.pc + 2 } = .next t ∧
      step s = .next (if t.flt then { s with flt := t.flt, fcause := t.fcause, fval := t.fval, fpc := t.fpc }
        else { t with dt := if t.dt = 0 then 0 else t.dt - 1, st := if t.st = 0 then 0 else t.st - 1 })

/-- Every instruction in every state, and every step, answers a next state (`40_step_driver.md` R125, R128). One that faults
does too: a fault is itself such a next state, with the latch set and the core halted, and never the outcome `fault` (the
model's reading, assumption 1, DEDUCED from the spec's decisions D3 and D4). -/
def Obligations.ExecAndStepAnswerNextState : Prop :=
  (∀ (i : Instr) (s : State), ∃ t, exec i s = .next t) ∧ (∀ s : State, ∃ t, step s = .next t)

/-- A halted core: a step changes nothing, no event but `reset` changes the latch, `PC` or a register, `set_key` still acts
(so does `load_program`, see LoadProgramCopiesBytes), `reset` clears the latch (`40_step_driver.md` R126, the spec's
decisions D21 and D4; assumptions 2 and 6). -/
def Obligations.HaltedCoreStaysHaltedUntilReset : Prop :=
  ∀ s : State, s.flt = true →
    step s = .next s ∧
    (∀ (e : Event) (t : State), e ≠ .reset → s.apply e = .next t →
      t.flt = true ∧ t.fcause = s.fcause ∧ t.fval = s.fval ∧ t.fpc = s.fpc ∧ t.pc = s.pc ∧ t.v = s.v) ∧
    (∀ k b, ∃ t, s.apply (.setKey k b) = .next t ∧ t.key[k] = b) ∧
    (∃ t, s.apply .reset = .next t ∧ t.flt = false ∧ t.fcause = 0 ∧ t.fval = 0 ∧ t.fpc = 0)

/-- A fetch with a byte above address 4095 raises FETCH_OOB and changes nothing else (`60_exceptions.md` R254, the spec's
decision D3; the fault is a next state with the latch set, assumption 1). -/
def Obligations.FetchAboveMemoryFaults : Prop :=
  ∀ s : State, s.flt = false → 0x0FFE < s.pc.toNat →
    step s = .next { s with flt := true, fcause := 1, fval := s.pc, fpc := s.pc }

/-- A faulting step commits nothing but the latch: `FPC` is the instruction's address, where `PC` still stands, and the
cause is one of the five (`00_scope.md` R17, `60_exceptions.md` R252, the spec's decisions D3, D4; assumption 1). -/
def Obligations.FaultingStepKeepsOnlyTheLatch : Prop :=
  ∀ s t : State, s.flt = false → step s = .next t → t.flt = true →
    t = { s with flt := true, fcause := t.fcause, fval := t.fval, fpc := s.pc } ∧
      1 ≤ t.fcause.toNat ∧ t.fcause.toNat ≤ 5

/-- An instruction faults exactly where the table of causes says, with the cause and value it says, and otherwise leaves the
latch alone (`60_exceptions.md` R253 to R258, the spec's decisions D3, D4, D5, D16). -/
def Obligations.InstructionsFaultExactlyAsTabled : Prop :=
  ∀ (i : Instr) (s : State),
    (∀ code val, faultTable s i = some (code, val) →
      ∃ t, exec i s = .next t ∧ Faulted code (BitVec.ofNat 16 val) s t) ∧
    (faultTable s i = none →
      ∃ t, exec i s = .next t ∧ t.flt = s.flt ∧ t.fcause = s.fcause ∧ t.fval = s.fval ∧ t.fpc = s.fpc)

/-- The tick: in every committed step each timer ends one below the value the instruction left, and 0 stays 0; only
`Fx15` and `Fx18` load one (`10_state.md` R29). -/
def Obligations.CommittedStepTicksBothTimers : Prop :=
  ∀ s t : State, s.flt = false → step s = .next t → t.flt = false →
    t.dt.toNat = (match decodeWord s.fetchWord with | .ldDtVx x => (s.reg x).toNat | _ => s.dt.toNat) - 1 ∧
    t.st.toNat = (match decodeWord s.fetchWord with | .ldStVx x => (s.reg x).toNat | _ => s.st.toNat) - 1

/-- The fetched word is big-endian and is what `IR` holds after a committed step (`20_memory.md` R66, `10_state.md` R33); a
faulting step keeps the old `IR`, because R252 of `60_exceptions.md` discards the fetch's write of it (the model's reading,
assumption 7, DEDUCED; the spec's decision D4); no step touches the keypad (`10_state.md` R32). -/
def Obligations.StepFetchesBigEndianAndKeepsKeys : Prop :=
  ∀ s t : State, s.flt = false → step s = .next t →
    t.key = s.key ∧ (t.flt = true → t.ir = s.ir) ∧
    (t.flt = false → t.ir.toNat = (s.readByte s.pc.toNat).toNat * 256 + (s.readByte (s.pc.toNat + 1)).toNat)

/-! ### What each piece of state is written by -/

/-- No byte of memory changes in an instruction but `Fx33` and `Fx55` (`20_memory.md` R70). -/
def Obligations.MemoryChangesOnlyByDigitsAndStore : Prop :=
  ∀ (i : Instr) (s t : State), exec i s = .next t → (∀ x, i ≠ .ldB x) → (∀ x, i ≠ .storeRegs x) →
    ∀ a, t.readByte a = s.readByte a

/-- An instruction writes no general register but its destination, and `V[0xF]` only for the six flag-writing instructions
(`10_state.md` R22). -/
def Obligations.RegistersChangeOnlyWhereWritten : Prop :=
  ∀ (i : Instr) (s t : State), exec i s = .next t → ∀ r, r ∉ writesRegs i → t.reg r = s.reg r

/-- Only `2nnn` writes a stack entry, the one at `SP`, and only `2nnn` and `00EE` move `SP` (`10_state.md` R25, R26). -/
def Obligations.StackChangesOnlyByCallAndReturn : Prop :=
  ∀ (i : Instr) (s t : State), exec i s = .next t →
    (∀ k : Fin 16, k.val ≠ s.sp.toNat → t.stack[k] = s.stack[k]) ∧
    ((∀ nnn, i ≠ .call nnn) → t.stack = s.stack) ∧
    ((∀ nnn, i ≠ .call nnn) → i ≠ .ret → t.sp = s.sp)

/-- Only `Annn`, `Fx1E` and `Fx29` write `I` (`10_state.md` R23). -/
def Obligations.IndexChangesOnlyByItsThreeWriters : Prop :=
  ∀ (i : Instr) (s t : State), exec i s = .next t →
    (∀ nnn, i ≠ .ldI nnn) → (∀ x, i ≠ .addI x) → (∀ x, i ≠ .ldF x) → t.i = s.i

/-- Apart from the tick, only `Fx15` writes `DT` and only `Fx18` writes `ST` (`10_state.md` R27, R28). -/
def Obligations.TimersChangeOnlyByTheirWriters : Prop :=
  ∀ (i : Instr) (s t : State), exec i s = .next t →
    ((∀ x, i ≠ .ldDtVx x) → t.dt = s.dt) ∧ ((∀ x, i ≠ .ldStVx x) → t.st = s.st)

/-- Only `00E0` and `Dxyn` change a display cell (`10_state.md` R34). -/
def Obligations.DisplayChangesOnlyByClearAndDraw : Prop :=
  ∀ (i : Instr) (s t : State), exec i s = .next t → i ≠ .cls → (∀ x y n, i ≠ .drw x y n) →
    ∀ r c, t.cell r c = s.cell r c

/-! ### The invariant and reset -/

/-- Reset meets the invariant of the machine: canonical memory (the model's own representation, assumption 9, DESIGN CHOICE),
`SP` in 0..16 (`10_state.md` R26), return addresses at most 0x1000 (`42_flow_skip_imm.md` R151), `PC` at most 0x10FE
(`44_family_9_to_D.md` R192), a coherent latch (`10_state.md` R36). The values reset leaves are those of
`70_reset_and_hazards.md` R290, `SP` and the latch by the spec's decisions D11 and D4 (assumption 6). -/
def Obligations.ResetMeetsInvariant : Prop := State.reset.Inv

/-- Every step keeps the invariant: canonical memory (the model's own representation, assumption 9, DESIGN CHOICE), `SP` in
0..16 (`10_state.md` R26, by the faults of the spec's decision D3), return addresses at most 0x1000 (`42_flow_skip_imm.md`
R151), `PC` at most 0x10FE (`44_family_9_to_D.md` R192), so that no `PC` arithmetic wraps (`10_state.md` R24), a coherent
latch (`10_state.md` R36, the spec's decision D4; assumption 1). -/
def Obligations.StepKeepsInvariant : Prop :=
  ∀ s t : State, s.Inv → step s = .next t → t.Inv

/-- Every event of the interface (`00_scope.md` R10) that is not refused keeps the invariant of StepKeepsInvariant: canonical
memory (the model's own representation, assumption 9, DESIGN CHOICE), the bounds on `SP`, the return addresses and `PC`, the
coherent latch (the spec's decisions D3 and D4; assumption 1). The step is one of the events; reset leaves the values of
decisions D11 and D4 (assumption 6); a load above 3584 bytes is refused (decision D17; assumption 13). -/
def Obligations.EventsKeepInvariant : Prop :=
  ∀ (s t : State) (e : Event), s.Inv → s.apply e = .next t → t.Inv

/-- What reset leaves (`70_reset_and_hazards.md` R290; `SP`, the keypad, `IR` and the latch by the spec's decisions D11 and
D4; the `draws` field is the model's own and is not spoken of). -/
def Obligations.ResetLeavesTheTabledValues : Prop :=
  ∀ s : State, ∃ t, s.apply .reset = .next t ∧
    (∀ r, t.reg r = 0) ∧ t.i = 0 ∧ t.pc = 0x0200 ∧ (∀ k : Fin 16, t.stack[k] = 0) ∧ t.sp = 0 ∧ t.dt = 0 ∧ t.st = 0 ∧
    (∀ k : Fin 16, t.key[k] = false) ∧ t.ir = 0 ∧ (∀ r c, t.cell r c = false) ∧
    (∀ k, k < 80 → t.readByte (0x50 + k) = Config.font k) ∧
    (∀ a, a < 4096 → ¬ (0x50 ≤ a ∧ a < 0xA0) → t.readByte a = 0) ∧
    t.flt = false ∧ t.fcause = 0 ∧ t.fval = 0 ∧ t.fpc = 0 ∧ t.soundOn = false

/-! ### Families 0 to 7 -/

/-- `00E0` clears every cell and changes nothing else (`41_family_0.md` R140); that every word `0??0` is this instruction is the
spec's decision D6 (`30_encoding.md` R100; assumption 11). -/
def Obligations.ClearTurnsEveryCellOff : Prop :=
  (∀ m, m < 256 → decodeWord (BitVec.ofNat 16 (m * 16)) = .cls) ∧
  ∀ s : State, ∃ t, exec .cls s = .next t ∧ (∀ r c, t.cell r c = false) ∧ Frame { fb := true } s t

/-- `00EE` with `SP` in 1..16 pops `PC` and erases nothing (`41_family_0.md` R141; where it faults is
InstructionsFaultExactlyAsTabled, by the spec's decision D3); that every word `0??E` is this instruction is the spec's
decision D6 (`30_encoding.md` R100; assumption 11). -/
def Obligations.ReturnPopsThePC : Prop :=
  (∀ m, m < 256 → decodeWord (BitVec.ofNat 16 (m * 16 + 0xE)) = .ret) ∧
  ∀ (s : State) (k : Fin 16), s.sp.toNat = k.val + 1 →
    ∃ t, exec .ret s = .next t ∧ t.sp.toNat = k.val ∧ t.pc = s.stack[k] ∧ Frame { sp := true, pc := true } s t

/-- `1nnn` sets `PC` to `nnn`, whatever `nnn` is, and nothing else (`42_flow_skip_imm.md` R150). -/
def Obligations.JumpSetsPC : Prop :=
  ∀ nnn : BitVec 12, decodeWord (BitVec.ofNat 16 (0x1000 + nnn.toNat)) = .jp nnn ∧
    ∀ s : State, ∃ t, exec (.jp nnn) s = .next t ∧ t.pc.toNat = nnn.toNat ∧ Frame { pc := true } s t

/-- `2nnn` with `SP` below 16 stores the advanced `PC` at `stack[SP]`, counts `SP` up and jumps (`42_flow_skip_imm.md` R151;
where it faults is InstructionsFaultExactlyAsTabled). -/
def Obligations.CallPushesAdvancedPC : Prop :=
  ∀ nnn : BitVec 12, decodeWord (BitVec.ofNat 16 (0x2000 + nnn.toNat)) = .call nnn ∧
    ∀ (s : State) (k : Fin 16), s.sp.toNat = k.val →
      ∃ t, exec (.call nnn) s = .next t ∧ t.stack[k] = s.pc ∧ t.sp.toNat = k.val + 1 ∧ t.pc.toNat = nnn.toNat ∧
        Frame { stackEntries := [k], sp := true, pc := true } s t

/-- The four comparing skips add 2 to the advanced `PC` exactly when their condition holds, and change nothing else
(`42_flow_skip_imm.md` R152 to R154, `44_family_9_to_D.md` R190); that the low nibble of `5xy?` and `9xy?` is not examined is
the spec's decision D6 (`30_encoding.md` R100; assumption 11). -/
def Obligations.ComparingSkipsMovePC : Prop :=
  ∀ (x y : Reg) (kk : BitVec 8) (n : BitVec 4),
    decodeWord (BitVec.ofNat 16 (0x3000 + x.val * 256 + kk.toNat)) = .seImm x kk ∧
    decodeWord (BitVec.ofNat 16 (0x4000 + x.val * 256 + kk.toNat)) = .sneImm x kk ∧
    decodeWord (BitVec.ofNat 16 (0x5000 + x.val * 256 + y.val * 16 + n.toNat)) = .seReg x y ∧
    decodeWord (BitVec.ofNat 16 (0x9000 + x.val * 256 + y.val * 16 + n.toNat)) = .sneReg x y ∧
    ∀ s : State,
      (∃ t, exec (.seImm x kk) s = .next t ∧ Frame { pc := true } s t ∧
        t.pc.toNat = (s.pc.toNat + if s.reg x = kk then 2 else 0) % 65536) ∧
      (∃ t, exec (.sneImm x kk) s = .next t ∧ Frame { pc := true } s t ∧
        t.pc.toNat = (s.pc.toNat + if s.reg x = kk then 0 else 2) % 65536) ∧
      (∃ t, exec (.seReg x y) s = .next t ∧ Frame { pc := true } s t ∧
        t.pc.toNat = (s.pc.toNat + if s.reg x = s.reg y then 2 else 0) % 65536) ∧
      (∃ t, exec (.sneReg x y) s = .next t ∧ Frame { pc := true } s t ∧
        t.pc.toNat = (s.pc.toNat + if s.reg x = s.reg y then 0 else 2) % 65536)

/-- `6xkk` loads `kk` and changes nothing else (`42_flow_skip_imm.md` R155). -/
def Obligations.LoadImmediateSetsRegister : Prop :=
  ∀ (x : Reg) (kk : BitVec 8), decodeWord (BitVec.ofNat 16 (0x6000 + x.val * 256 + kk.toNat)) = .ldImm x kk ∧
    ∀ s : State, ∃ t, exec (.ldImm x kk) s = .next t ∧ t.reg x = kk ∧ Frame { regs := [x] } s t

/-- `7xkk` adds `kk` modulo 256 and writes no flag (`42_flow_skip_imm.md` R156). -/
def Obligations.AddImmediateWrapsWithoutFlag : Prop :=
  ∀ (x : Reg) (kk : BitVec 8), decodeWord (BitVec.ofNat 16 (0x7000 + x.val * 256 + kk.toNat)) = .addImm x kk ∧
    ∀ s : State, ∃ t, exec (.addImm x kk) s = .next t ∧
      (t.reg x).toNat = ((s.reg x).toNat + kk.toNat) % 256 ∧ Frame { regs := [x] } s t

/-! ### Family 8 -/

/-- `8xy0` to `8xy3`: copy, and bit by bit OR, AND, XOR; `V[0xF]` is left alone unless it is the destination
(`43_alu_8.md` R171 to R174). -/
def Obligations.CopyAndLogicWriteOnlyVx : Prop :=
  ∀ x y : Reg,
    decodeWord (BitVec.ofNat 16 (0x8000 + x.val * 256 + y.val * 16)) = .ldReg x y ∧
    decodeWord (BitVec.ofNat 16 (0x8001 + x.val * 256 + y.val * 16)) = .orReg x y ∧
    decodeWord (BitVec.ofNat 16 (0x8002 + x.val * 256 + y.val * 16)) = .andReg x y ∧
    decodeWord (BitVec.ofNat 16 (0x8003 + x.val * 256 + y.val * 16)) = .xorReg x y ∧
    ∀ s : State,
      (∃ t, exec (.ldReg x y) s = .next t ∧ t.reg x = s.reg y ∧ Frame { regs := [x] } s t) ∧
      (∃ t, exec (.orReg x y) s = .next t ∧ Frame { regs := [x] } s t ∧
        ∀ k, (t.reg x).getLsbD k = ((s.reg x).getLsbD k || (s.reg y).getLsbD k)) ∧
      (∃ t, exec (.andReg x y) s = .next t ∧ Frame { regs := [x] } s t ∧
        ∀ k, (t.reg x).getLsbD k = ((s.reg x).getLsbD k && (s.reg y).getLsbD k)) ∧
      (∃ t, exec (.xorReg x y) s = .next t ∧ Frame { regs := [x] } s t ∧
        ∀ k, (t.reg x).getLsbD k = ((s.reg x).getLsbD k != (s.reg y).getLsbD k))

/-- `8xy4`: the sum of the old values modulo 256, the carry in `V[0xF]`; with `x = 0xF` the sum is what remains
(`43_alu_8.md` R175; the order of the two writes is the spec's decision D7). -/
def Obligations.AddRegistersSetsCarry : Prop :=
  ∀ x y : Reg, decodeWord (BitVec.ofNat 16 (0x8004 + x.val * 256 + y.val * 16)) = .addReg x y ∧
    ∀ s : State, ∃ t, exec (.addReg x y) s = .next t ∧
      (t.reg x).toNat = ((s.reg x).toNat + (s.reg y).toNat) % 256 ∧
      (x ≠ 0xF → t.reg 0xF = if (s.reg x).toNat + (s.reg y).toNat > 255 then 1 else 0) ∧
      Frame { regs := [x, 0xF] } s t

/-- `8xy5`: the four cases of the table of `43_alu_8.md` R176, with `f` the strict comparison of the old values (the order
of the two writes is the spec's decision D7). -/
def Obligations.SubtractFollowsItsCaseTable : Prop :=
  ∀ x y : Reg, decodeWord (BitVec.ofNat 16 (0x8005 + x.val * 256 + y.val * 16)) = .subReg x y ∧
    ∀ (s : State) (f : Nat), (f = if (s.reg x).toNat > (s.reg y).toNat then 1 else 0) →
      ∃ t, exec (.subReg x y) s = .next t ∧ Frame { regs := [x, 0xF] } s t ∧
        (x ≠ 0xF → (t.reg 0xF).toNat = f) ∧
        (x ≠ 0xF → y ≠ 0xF → (t.reg x).toNat = ((s.reg x).toNat + 256 - (s.reg y).toNat) % 256) ∧
        (x = 0xF → y ≠ 0xF → (t.reg 0xF).toNat = (f + 256 - (s.reg y).toNat) % 256) ∧
        (x ≠ 0xF → y = 0xF → (t.reg x).toNat = ((s.reg x).toNat + 256 - f) % 256) ∧
        (x = 0xF → y = 0xF → t.reg 0xF = 0)

/-- `8xy6`: `V[x]` halved, its old bit 0 in `V[0xF]`; with `x = 0xF` the register ends at 0; `y` plays no part
(`43_alu_8.md` R177; the order of the two writes is the spec's decision D7). -/
def Obligations.ShiftRightUsesVxOnly : Prop :=
  ∀ x y : Reg, decodeWord (BitVec.ofNat 16 (0x8006 + x.val * 256 + y.val * 16)) = .shr x y ∧
    ∀ s : State, ∃ t, exec (.shr x y) s = .next t ∧ Frame { regs := [x, 0xF] } s t ∧
      (x ≠ 0xF → (t.reg x).toNat = (s.reg x).toNat / 2 ∧ (t.reg 0xF).toNat = (s.reg x).toNat % 2) ∧
      (x = 0xF → t.reg 0xF = 0)

/-- `8xy7`: the four cases of the table of `43_alu_8.md` R178 (the order of the two writes is the spec's decision D7). -/
def Obligations.ReverseSubtractFollowsItsCaseTable : Prop :=
  ∀ x y : Reg, decodeWord (BitVec.ofNat 16 (0x8007 + x.val * 256 + y.val * 16)) = .subn x y ∧
    ∀ (s : State) (f : Nat), (f = if (s.reg y).toNat > (s.reg x).toNat then 1 else 0) →
      ∃ t, exec (.subn x y) s = .next t ∧ Frame { regs := [x, 0xF] } s t ∧
        (x ≠ 0xF → (t.reg 0xF).toNat = f) ∧
        (x ≠ 0xF → y ≠ 0xF → (t.reg x).toNat = ((s.reg y).toNat + 256 - (s.reg x).toNat) % 256) ∧
        (x = 0xF → y ≠ 0xF → (t.reg 0xF).toNat = ((s.reg y).toNat + 256 - f) % 256) ∧
        (x ≠ 0xF → y = 0xF → (t.reg x).toNat = (f + 256 - (s.reg x).toNat) % 256) ∧
        (x = 0xF → y = 0xF → t.reg 0xF = 0)

/-- `8xyE`: `V[x]` doubled modulo 256, its old bit 7 in `V[0xF]`; with `x = 0xF` the register ends at 0 or 2; `y` plays no
part (`43_alu_8.md` R179; the order of the two writes is the spec's decision D7). -/
def Obligations.ShiftLeftUsesVxOnly : Prop :=
  ∀ x y : Reg, decodeWord (BitVec.ofNat 16 (0x800E + x.val * 256 + y.val * 16)) = .shl x y ∧
    ∀ s : State, ∃ t, exec (.shl x y) s = .next t ∧ Frame { regs := [x, 0xF] } s t ∧
      (x ≠ 0xF → (t.reg x).toNat = (s.reg x).toNat * 2 % 256 ∧ (t.reg 0xF).toNat = (s.reg x).toNat / 128) ∧
      (x = 0xF → (t.reg 0xF).toNat = (s.reg 0xF).toNat / 128 * 2)

/-! ### Families 9 to D -/

/-- `Annn` loads `I` and changes nothing else (`44_family_9_to_D.md` R191). -/
def Obligations.LoadIndexSetsI : Prop :=
  ∀ nnn : BitVec 12, decodeWord (BitVec.ofNat 16 (0xA000 + nnn.toNat)) = .ldI nnn ∧
    ∀ s : State, ∃ t, exec (.ldI nnn) s = .next t ∧ t.i.toNat = nnn.toNat ∧ Frame { i := true } s t

/-- `Bnnn` jumps to `V[0] + nnn`, not masked, and changes nothing else (`44_family_9_to_D.md` R192). -/
def Obligations.IndexedJumpAddsV0 : Prop :=
  ∀ nnn : BitVec 12, decodeWord (BitVec.ofNat 16 (0xB000 + nnn.toNat)) = .jpV0 nnn ∧
    ∀ s : State, ∃ t, exec (.jpV0 nnn) s = .next t ∧ t.pc.toNat = (s.reg 0).toNat + nnn.toNat ∧
      Frame { pc := true } s t

/-- `Cxkk`: `V[x]` is the random byte AND `kk`, so no bit outside `kk` is set, and one random byte is consumed
(`44_family_9_to_D.md` R193). The random byte is the model's free value of assumption 3: the statement holds whatever
bytes the source supplies and whatever the draw count is. -/
def Obligations.RandomByteIsMasked : Prop :=
  ∀ (x : Reg) (kk : BitVec 8), decodeWord (BitVec.ofNat 16 (0xC000 + x.val * 256 + kk.toNat)) = .rnd x kk ∧
    ∀ s : State, ∃ t, exec (.rnd x kk) s = .next t ∧ t.reg x = Config.randomByte s.draws &&& kk ∧
      (∀ k, kk.getLsbD k = false → (t.reg x).getLsbD k = false) ∧ t.draws = s.draws + 1 ∧
      Frame { regs := [x], draws := true } s t

/-- `Dxyn` with its rows inside memory (or no rows): each cell under a set sprite bit flips, every other cell stays, and
`V[0xF]` is 1 if a cell went from on to off, else 0; the coordinates are the old `V[x]`, `V[y]` (`44_family_9_to_D.md` R194,
R195; bit 7 as column 0, the range check and `n = 0` are the spec's decisions D8, D16, D18). -/
def Obligations.DrawFlipsCoveredCells : Prop :=
  ∀ (x y : Reg) (n : BitVec 4),
    decodeWord (BitVec.ofNat 16 (0xD000 + x.val * 256 + y.val * 16 + n.toNat)) = .drw x y n ∧
    ∀ s : State, (n.toNat = 0 ∨ s.i.toNat + n.toNat - 1 ≤ 4095) →
      ∃ t, exec (.drw x y n) s = .next t ∧ Frame { regs := [0xF], fb := true } s t ∧
        (∀ r c, SpriteCovers (s.reg x) (s.reg y) n.toNat (fun k => s.readByte (s.i.toNat + k)) r c →
          t.cell r c = !s.cell r c) ∧
        (∀ r c, ¬ SpriteCovers (s.reg x) (s.reg y) n.toNat (fun k => s.readByte (s.i.toNat + k)) r c →
          t.cell r c = s.cell r c) ∧
        ((∃ r c, SpriteCovers (s.reg x) (s.reg y) n.toNat (fun k => s.readByte (s.i.toNat + k)) r c ∧
          s.cell r c = true) → t.reg 0xF = 1) ∧
        ((∀ r c, SpriteCovers (s.reg x) (s.reg y) n.toNat (fun k => s.readByte (s.i.toNat + k)) r c →
          s.cell r c = false) → t.reg 0xF = 0)

/-! ### Family E -/

/-- The keypad skips with `V[x]` in 0..15: they add 2 to the advanced `PC` exactly when the key is down (`Ex?E`) or up
(`Ex?1`), and change nothing else (`45_keypad_E.md` R210, R211; where they fault is InstructionsFaultExactlyAsTabled, by the
spec's decision D5); that every `Ex?E` and `Ex?1` is one of the two is the spec's decision D6 (`30_encoding.md` R100;
assumption 11). -/
def Obligations.KeypadSkipsMovePC : Prop :=
  ∀ (x : Reg) (m : BitVec 4),
    decodeWord (BitVec.ofNat 16 (0xE00E + x.val * 256 + m.toNat * 16)) = .skp x ∧
    decodeWord (BitVec.ofNat 16 (0xE001 + x.val * 256 + m.toNat * 16)) = .sknp x ∧
    ∀ (s : State) (k : Fin 16), (s.reg x).toNat = k.val →
      (∃ t, exec (.skp x) s = .next t ∧ Frame { pc := true } s t ∧
        t.pc.toNat = (s.pc.toNat + if s.key[k] then 2 else 0) % 65536) ∧
      (∃ t, exec (.sknp x) s = .next t ∧ Frame { pc := true } s t ∧
        t.pc.toNat = (s.pc.toNat + if s.key[k] then 0 else 2) % 65536)

/-! ### Family F -/

/-- `Fx07` reads `DT` as it stands before the step's tick, and changes nothing else (`46_family_F.md` R220). -/
def Obligations.ReadDelayTimerSetsRegister : Prop :=
  ∀ x : Reg, decodeWord (BitVec.ofNat 16 (0xF007 + x.val * 256)) = .ldVxDt x ∧
    ∀ s : State, ∃ t, exec (.ldVxDt x) s = .next t ∧ t.reg x = s.dt ∧ Frame { regs := [x] } s t

/-- `Fx0A`: the lowest pressed key's number in `V[x]`; with no key pressed only `PC` changes, back by 2
(`46_family_F.md` R221). -/
def Obligations.KeyWaitTakesLowestKeyOrRewinds : Prop :=
  ∀ x : Reg, decodeWord (BitVec.ofNat 16 (0xF00A + x.val * 256)) = .ldVxK x ∧
    ∀ s : State,
      (∀ k : Fin 16, s.key[k] = true → (∀ j : Fin 16, j < k → s.key[j] = false) →
        ∃ t, exec (.ldVxK x) s = .next t ∧ (t.reg x).toNat = k.val ∧ Frame { regs := [x] } s t) ∧
      ((∀ k : Fin 16, s.key[k] = false) →
        ∃ t, exec (.ldVxK x) s = .next t ∧ t.pc = s.pc - 2 ∧ Frame { pc := true } s t)

/-- `Fx15` and `Fx18` load their timer and change nothing else; the step that runs one ends with the timer one below `V[x]`,
or 0, and with `sound_on` only if `V[x]` is at least 2 (`46_family_F.md` R222, R223). -/
def Obligations.SetTimerThenTick : Prop :=
  ∀ x : Reg,
    decodeWord (BitVec.ofNat 16 (0xF015 + x.val * 256)) = .ldDtVx x ∧
    decodeWord (BitVec.ofNat 16 (0xF018 + x.val * 256)) = .ldStVx x ∧
    ∀ s : State,
      (∃ t, exec (.ldDtVx x) s = .next t ∧ t.dt = s.reg x ∧ Frame { dt := true } s t) ∧
      (∃ t, exec (.ldStVx x) s = .next t ∧ t.st = s.reg x ∧ Frame { st := true } s t) ∧
      (s.flt = false → s.pc.toNat ≤ 0x0FFE → decodeWord s.fetchWord = .ldDtVx x →
        ∃ t, step s = .next t ∧ t.dt.toNat = (s.reg x).toNat - 1) ∧
      (s.flt = false → s.pc.toNat ≤ 0x0FFE → decodeWord s.fetchWord = .ldStVx x →
        ∃ t, step s = .next t ∧ t.st.toNat = (s.reg x).toNat - 1 ∧ t.soundOn = decide ((s.reg x).toNat ≥ 2))

/-- `Fx1E` adds `V[x]` to `I` modulo 65536 and writes no flag (`46_family_F.md` R224; the 16-bit reduction is the spec's
decision D12). -/
def Obligations.AddToIndexWrapsAt16Bits : Prop :=
  ∀ x : Reg, decodeWord (BitVec.ofNat 16 (0xF01E + x.val * 256)) = .addI x ∧
    ∀ s : State, ∃ t, exec (.addI x) s = .next t ∧ t.i.toNat = (s.i.toNat + (s.reg x).toNat) % 65536 ∧
      Frame { i := true } s t

/-- `Fx29` sets `I` to `0x50 + 5*V[x]`, the whole byte, and changes nothing else (`46_family_F.md` R225). -/
def Obligations.GlyphAddressUsesWholeByte : Prop :=
  ∀ x : Reg, decodeWord (BitVec.ofNat 16 (0xF029 + x.val * 256)) = .ldF x ∧
    ∀ s : State, ∃ t, exec (.ldF x) s = .next t ∧ t.i.toNat = 0x50 + 5 * (s.reg x).toNat ∧ Frame { i := true } s t

/-- `Fx33` with `I + 2` inside memory stores the three decimal digits of `V[x]` at `I`, `I + 1`, `I + 2` and changes nothing
else (`46_family_F.md` R226; the range check is the spec's decision D16). Memory is in its canonical form (assumption 9),
an invariant of the machine. -/
def Obligations.DecimalDigitsAreStored : Prop :=
  ∀ x : Reg, decodeWord (BitVec.ofNat 16 (0xF033 + x.val * 256)) = .ldB x ∧
    ∀ s : State, s.mem.wf = true → s.i.toNat + 2 ≤ 4095 →
      ∃ t, exec (.ldB x) s = .next t ∧
        (t.readByte s.i.toNat).toNat = (s.reg x).toNat / 100 ∧
        (t.readByte (s.i.toNat + 1)).toNat = (s.reg x).toNat / 10 % 10 ∧
        (t.readByte (s.i.toNat + 2)).toNat = (s.reg x).toNat % 10 ∧
        Frame { bytes := [s.i.toNat, s.i.toNat + 1, s.i.toNat + 2] } s t

/-- `Fx55` with `I + x` inside memory stores `V[0]..V[x]` at `I..I + x` and changes nothing else, `I` included
(`46_family_F.md` R227; the range check is the spec's decision D16). Memory is in its canonical form (assumption 9), an
invariant of the machine. -/
def Obligations.BlockStoreWritesRegisters : Prop :=
  ∀ x : Reg, decodeWord (BitVec.ofNat 16 (0xF055 + x.val * 256)) = .storeRegs x ∧
    ∀ s : State, s.mem.wf = true → s.i.toNat + x.val ≤ 4095 →
      ∃ t, exec (.storeRegs x) s = .next t ∧
        (∀ r : Reg, r ≤ x → t.readByte (s.i.toNat + r.val) = s.reg r) ∧
        Frame { bytes := (List.range (x.val + 1)).map (fun k => s.i.toNat + k) } s t

/-- `Fx65` with `I + x` inside memory loads `V[0]..V[x]` from `I..I + x` and changes nothing else, `I` included
(`46_family_F.md` R228; the range check is the spec's decision D16). -/
def Obligations.BlockLoadReadsRegisters : Prop :=
  ∀ x : Reg, decodeWord (BitVec.ofNat 16 (0xF065 + x.val * 256)) = .loadRegs x ∧
    ∀ s : State, s.i.toNat + x.val ≤ 4095 →
      ∃ t, exec (.loadRegs x) s = .next t ∧
        (∀ r : Reg, r ≤ x → t.reg r = s.readByte (s.i.toNat + r.val)) ∧
        Frame { regs := (List.finRange 16).filter (fun r => decide (r ≤ x)) } s t

/-- The no-op changes nothing; the step that runs it advances `PC` by 2, ticks, and changes nothing else but `IR`
(`40_step_driver.md` R127). -/
def Obligations.NoOpOnlyAdvancesAndTicks : Prop :=
  ∀ (sel : NopSelector) (s : State), exec (.nop sel) s = .next s ∧
    (s.flt = false → s.pc.toNat ≤ 0x0FFE → decodeWord s.fetchWord = .nop sel →
      ∃ t, step s = .next t ∧ t.pc.toNat = s.pc.toNat + 2 ∧ t.dt.toNat = s.dt.toNat - 1 ∧ t.st.toNat = s.st.toNat - 1 ∧
        t.ir = s.fetchWord ∧ Frame { pc := true, dt := true, st := true } { s with ir := s.fetchWord } t)

/-! ### Pairs of instructions and special steps -/

/-- A block store inside memory and then a block load of the same registers, with any registers in between, restores them
(`46_family_F.md` R227, R228; the source's property S5 in `95_test_vectors.md`; the range check is the spec's decision D16).
Memory is in its canonical form (assumption 9), an invariant of the machine. -/
def Obligations.StoreThenLoadRestoresRegisters : Prop :=
  ∀ (x : Reg) (s : State), s.mem.wf = true → s.i.toNat + x.val ≤ 4095 →
    ∃ t, exec (.storeRegs x) s = .next t ∧
      ∀ w : Vector Byte 16, ∃ u, exec (.loadRegs x) { t with v := w } = .next u ∧
        ∀ r : Reg, r ≤ x → u.reg r = s.reg r

/-- A call with `SP` below 16 and then a return, wherever the called code stands when it returns: `PC` is the address after the
call, `SP` is as before (`41_family_0.md` R141, `42_flow_skip_imm.md` R151; the source's property S7 in the reading of
`90_conflicts.md` C4; a call with `SP` at 16 or more faults, by the spec's decision D3). -/
def Obligations.CallThenReturnRestoresPC : Prop :=
  ∀ (nnn : BitVec 12) (s : State), s.sp.toNat < 16 →
    ∃ t, exec (.call nnn) s = .next t ∧
      ∀ w : Word, ∃ u, exec .ret { t with pc := w } = .next u ∧ u.pc = s.pc ∧ u.sp = s.sp

/-- Drawing the same sprite twice at the same place gives back the display; the second draw reports a collision exactly when
the sprite has a set bit on a cell the first draw turned on (`44_family_9_to_D.md` R195; the source's property S8). Rows are
at most 15 (R195), so no cell is visited twice. -/
def Obligations.DrawingTwiceErases : Prop :=
  ∀ (x0 y0 : Byte) (rows : List Byte) (f : Display), rows.length ≤ 15 →
    (drawSprite x0 y0 rows (drawSprite x0 y0 rows f).1).1 = f ∧
    ((drawSprite x0 y0 rows (drawSprite x0 y0 rows f).1).2 = true ↔
      ∃ r c, SpriteCovers x0 y0 rows.length (fun k => rows.getD k 0) r c ∧ f[r][c] = false)

/-- A store into a byte of the word at `PC` is what the next fetch reads (`20_memory.md` R75, the spec's decision D19), high byte
first (R66). For `Fx55` and for `Fx33`, wherever the block lies: over both bytes of the word, over its high byte only (the
block ends at `PC`), over its low byte only (the block starts at `PC + 1`), or over neither. The block is inside memory and
`PC` can be fetched at (decisions D16, D3). Memory is in its canonical form (assumption 9), an invariant of the machine. -/
def Obligations.StoreIsSeenByNextFetch : Prop :=
  ∀ (x : Reg) (s : State), s.mem.wf = true → s.pc.toNat ≤ 0x0FFE →
    (s.i.toNat + x.val ≤ 4095 → ∃ t, exec (.storeRegs x) s = .next t ∧ t.pc = s.pc ∧
      (∀ r r' : Reg, r' ≤ x → r'.val = r.val + 1 → s.pc.toNat = s.i.toNat + r.val →
        t.fetchWord.toNat = (s.reg r).toNat * 256 + (s.reg r').toNat) ∧
      (s.pc.toNat = s.i.toNat + x.val →
        t.fetchWord.toNat = (s.reg x).toNat * 256 + (s.readByte (s.pc.toNat + 1)).toNat) ∧
      (s.pc.toNat + 1 = s.i.toNat →
        t.fetchWord.toNat = (s.readByte s.pc.toNat).toNat * 256 + (s.reg 0).toNat) ∧
      (s.pc.toNat + 1 < s.i.toNat ∨ s.i.toNat + x.val < s.pc.toNat → t.fetchWord = s.fetchWord)) ∧
    (s.i.toNat + 2 ≤ 4095 → ∃ t, exec (.ldB x) s = .next t ∧ t.pc = s.pc ∧
      (s.pc.toNat = s.i.toNat →
        t.fetchWord.toNat = (s.reg x).toNat / 100 * 256 + (s.reg x).toNat / 10 % 10) ∧
      (s.pc.toNat = s.i.toNat + 1 →
        t.fetchWord.toNat = (s.reg x).toNat / 10 % 10 * 256 + (s.reg x).toNat % 10) ∧
      (s.pc.toNat = s.i.toNat + 2 →
        t.fetchWord.toNat = (s.reg x).toNat % 10 * 256 + (s.readByte (s.pc.toNat + 1)).toNat) ∧
      (s.pc.toNat + 1 = s.i.toNat →
        t.fetchWord.toNat = (s.readByte s.pc.toNat).toNat * 256 + (s.reg x).toNat / 100) ∧
      (s.pc.toNat + 1 < s.i.toNat ∨ s.i.toNat + 2 < s.pc.toNat → t.fetchWord = s.fetchWord))

/-- A finished program stays finished: the step changes nothing but `IR` (`70_reset_and_hazards.md` R296, a notion the spec
offers by its decision D20). -/
def Obligations.FinalStateStaysFinal : Prop :=
  ∀ s : State, s.Final → ∃ t, step s = .next t ∧ t = { s with ir := s.fetchWord } ∧ t.Final

/-- With no program loaded the core executes CLS 1792 times from 0x0200 and then raises FETCH_OOB at 0x1000: one fixed run, from
reset (`70_reset_and_hazards.md` R292, which the spec marks as derived; that the word 0x0000 is CLS is the spec's decision D6,
assumption 11; the fault is decision D3, assumption 1; that memory lists nothing is the model's representation,
assumption 9). -/
def Obligations.UnloadedCoreRunsToFetchFault : Prop :=
  (∀ k, k ≤ 1792 → ∃ t, stepsTo k State.reset t ∧ t.flt = false ∧ t.pc.toNat = 0x200 + 2 * k ∧
    (∀ r c, t.cell r c = false) ∧ t.mem = [] ∧ (k < 1792 → decodeWord t.fetchWord = .cls)) ∧
  (∃ t, stepsTo 1793 State.reset t ∧ t.flt = true ∧ t.fcause = 1 ∧ t.fval = 0x1000 ∧ t.fpc = 0x1000)

/-! ### Encoding -/

/-- Decoding the word of any well-formed instruction gives the instruction back (`30_encoding.md` R91 to R105; the word of a
no-op is the model's choice, assumption 10). -/
def Obligations.DecodeOfEncodeIsTheInstruction : Prop :=
  ∀ i : Instr, i.wellFormed = true →
    decodeWord (encode i) = i ∧ ∀ rest, decodeBytes (encodeBytes i ++ rest) = .ok (i, rest)

/-- Every word decodes to the instruction of the one line of the opcode map it matches, and to the no-op exactly where it
matches none (`30_encoding.md` R101, R105; the masks leave out the bits of R100, the spec's decision D6, assumption 11). -/
def Obligations.DecodeFollowsTheOpcodeMap : Prop :=
  ∀ w : Word,
    (∀ r ∈ opcodeTable, w &&& r.mask = r.pattern → (decodeWord w).line = r.line) ∧
    ((∀ r ∈ opcodeTable, w &&& r.mask ≠ r.pattern) → (decodeWord w).line = 35)

/-- Every word decodes to a well-formed instruction, and the canonical word of that instruction decodes to it again: a
word differs from it only in what the decoder does not examine (`30_encoding.md` R100, R101, the spec's decision D6). -/
def Obligations.EveryWordDecodesWellFormed : Prop :=
  ∀ w : Word, (decodeWord w).wellFormed = true ∧ decodeWord (encode (decodeWord w)) = decodeWord w

/-- Words written out bit by bit from `30_encoding.md` R92 and R105, at least one of every family. -/
def Obligations.HandWrittenWordsDecode : Prop :=
  decodeWord 0b0000000011100000#16 = .cls ∧ decodeWord 0b0000000011101110#16 = .ret ∧
  decodeWord 0b0000000000000101#16 = .nop (.low0 0x5) ∧
  decodeWord 0b0001001000110100#16 = .jp 0x234 ∧ decodeWord 0b0010001000010000#16 = .call 0x210 ∧
  decodeWord 0b0011001100101010#16 = .seImm 3 0x2A ∧ decodeWord 0b0100001100101010#16 = .sneImm 3 0x2A ∧
  decodeWord 0b0101000100100000#16 = .seReg 1 2 ∧ decodeWord 0b0110101000001111#16 = .ldImm 10 0x0F ∧
  decodeWord 0b0111000000100000#16 = .addImm 0 0x20 ∧ decodeWord 0b1000000100100101#16 = .subReg 1 2 ∧
  decodeWord 0b1000000100101110#16 = .shl 1 2 ∧ decodeWord 0b1001000100100000#16 = .sneReg 1 2 ∧
  decodeWord 0b1010001011110000#16 = .ldI 0x2F0 ∧ decodeWord 0b1011001100000000#16 = .jpV0 0x300 ∧
  decodeWord 0b1100001100001111#16 = .rnd 3 0x0F ∧ decodeWord 0b1101000000010010#16 = .drw 0 1 2 ∧
  decodeWord 0b1110001010011110#16 = .skp 2 ∧ decodeWord 0b1110001010100001#16 = .sknp 2 ∧
  decodeWord 0b1111000101010101#16 = .storeRegs 1 ∧ decodeWord 0b1111001001100101#16 = .loadRegs 2

/-! ### The interface -/

/-- `load_program` copies the bytes to 0x200 and changes nothing else; a string above 3584 bytes is refused
(`70_reset_and_hazards.md` R293; the refusal is the spec's decision D17). Memory is in its canonical form (assumption 9). -/
def Obligations.LoadProgramCopiesBytes : Prop :=
  ∀ (s : State) (bytes : List Byte), s.mem.wf = true →
    (bytes.length ≤ 3584 → ∃ t, s.apply (.loadProgram bytes) = .next t ∧
      (∀ k, k < bytes.length → t.readByte (0x200 + k) = bytes.getD k 0) ∧
      (∀ a, ¬ (0x200 ≤ a ∧ a < 0x200 + bytes.length) → t.readByte a = s.readByte a) ∧
      t = { s with mem := t.mem }) ∧
    (3584 < bytes.length → s.apply (.loadProgram bytes) = .refused (.programTooLong bytes.length))

/-- `set_key` sets one key and nothing else (`00_scope.md` R10, `10_state.md` R32). The three observations of R10: the exported
frame buffer is 2048 values, the one at index `r*64 + c` all ones if the cell at row `r`, column `c` is on and all zeros if
it is off (`10_state.md` R34, `00_scope.md` R12; its width is the free value of assumption 5, the spec's decision D13);
`sound_on` is `ST > 0` (`10_state.md` R31); the fault report is the latch's cause, value and address exactly when `FLT` is
true, and nothing otherwise (`10_state.md` R36, the spec's decision D4). -/
def Obligations.KeypadAndObservations : Prop :=
  ∀ s : State,
    (∀ (k : Fin 16) (b : Bool), ∃ t, s.apply (.setKey k b) = .next t ∧ t.key[k] = b ∧
      (∀ j : Fin 16, j ≠ k → t.key[j] = s.key[j]) ∧ t = { s with key := t.key }) ∧
    s.frameBuffer.length = 2048 ∧
    (∀ (r : Fin 32) (c : Fin 64), s.frameBuffer[r.val * 64 + c.val]? =
      some (if s.cell r c then BitVec.allOnes Config.pixelW else 0)) ∧
    (s.soundOn = true ↔ 0 < s.st.toNat) ∧
    (s.flt = true → s.faultReport = some (s.fcause, s.fval, s.fpc)) ∧
    (s.flt = false → s.faultReport = none)
end

