-- ==== Sys2Proof/Laws/Decode.lean ====
section
/-!
SUPPORT. The fields of a word built by a format are the fields it was built from (`30_encoding.md` R91, R92), and a word's
two bytes give it back.
-/

namespace Sys2Proof

@[simp] theorem fieldP_formatNnn (p : BitVec 4) (nnn : BitVec 12) : fieldP (formatNnn p nnn) = p :=
  BitVec.extractLsb'_append_eq_left

@[simp] theorem fieldNnn_formatNnn (p : BitVec 4) (nnn : BitVec 12) : fieldNnn (formatNnn p nnn) = nnn :=
  BitVec.extractLsb'_append_eq_right

@[simp] theorem fieldP_formatXkk (p : BitVec 4) (x : Reg) (kk : BitVec 8) : fieldP (formatXkk p x kk) = p := by
  simp only [fieldP, formatXkk]
  rw [BitVec.extractLsb'_append_eq_of_le (by decide)]
  exact BitVec.extractLsb'_append_eq_left

@[simp] theorem fieldX_formatXkk (p : BitVec 4) (x : Reg) (kk : BitVec 8) : fieldX (formatXkk p x kk) = x := by
  simp only [fieldX, formatXkk]
  rw [BitVec.extractLsb'_append_eq_of_le (by decide)]
  exact congrArg BitVec.toFin (BitVec.extractLsb'_append_eq_right (a := p))

@[simp] theorem fieldKk_formatXkk (p : BitVec 4) (x : Reg) (kk : BitVec 8) : fieldKk (formatXkk p x kk) = kk :=
  BitVec.extractLsb'_append_eq_right

/-- The low nibble of a word is the low nibble of its low byte. -/
theorem fieldN_formatXkk (p : BitVec 4) (x : Reg) (kk : BitVec 8) :
    fieldN (formatXkk p x kk) = kk.extractLsb' 0 4 := by
  simp only [fieldN, formatXkk]
  exact BitVec.extractLsb'_append_eq_of_add_le (by decide)

@[simp] theorem fieldP_formatXyn (p : BitVec 4) (x y : Reg) (n : BitVec 4) : fieldP (formatXyn p x y n) = p := by
  simp only [fieldP, formatXyn]
  rw [BitVec.extractLsb'_append_eq_of_le (by decide), BitVec.extractLsb'_append_eq_of_le (by decide)]
  exact BitVec.extractLsb'_append_eq_left

@[simp] theorem fieldX_formatXyn (p : BitVec 4) (x y : Reg) (n : BitVec 4) : fieldX (formatXyn p x y n) = x := by
  simp only [fieldX, formatXyn]
  rw [BitVec.extractLsb'_append_eq_of_le (by decide), BitVec.extractLsb'_append_eq_of_le (by decide)]
  exact congrArg BitVec.toFin (BitVec.extractLsb'_append_eq_right (a := p))

@[simp] theorem fieldY_formatXyn (p : BitVec 4) (x y : Reg) (n : BitVec 4) : fieldY (formatXyn p x y n) = y := by
  simp only [fieldY, formatXyn]
  rw [BitVec.extractLsb'_append_eq_of_le (by decide)]
  exact congrArg BitVec.toFin (BitVec.extractLsb'_append_eq_right (a := p ++ BitVec.ofFin (w := 4) x))

@[simp] theorem fieldN_formatXyn (p : BitVec 4) (x y : Reg) (n : BitVec 4) : fieldN (formatXyn p x y n) = n :=
  BitVec.extractLsb'_append_eq_right

/-- The value of an `NNN` word. -/
theorem formatNnn_toNat (p : BitVec 4) (nnn : BitVec 12) :
    (formatNnn p nnn).toNat = p.toNat * 0x1000 + nnn.toNat := by
  simp only [formatNnn, BitVec.toNat_append]
  rw [← Nat.shiftLeft_add_eq_or_of_lt nnn.isLt, Nat.shiftLeft_eq]

/-- The value of an `XKK` or `XS` word. -/
theorem formatXkk_toNat (p : BitVec 4) (x : Reg) (kk : BitVec 8) :
    (formatXkk p x kk).toNat = p.toNat * 0x1000 + x.val * 256 + kk.toNat := by
  simp only [formatXkk, BitVec.toNat_append, BitVec.toNat_ofFin]
  rw [← Nat.shiftLeft_add_eq_or_of_lt kk.isLt, ← Nat.shiftLeft_add_eq_or_of_lt x.isLt, Nat.shiftLeft_eq, Nat.shiftLeft_eq]
  omega

/-- The value of an `XYN` word. -/
theorem formatXyn_toNat (p : BitVec 4) (x y : Reg) (n : BitVec 4) :
    (formatXyn p x y n).toNat = p.toNat * 0x1000 + x.val * 256 + y.val * 16 + n.toNat := by
  simp only [formatXyn, BitVec.toNat_append, BitVec.toNat_ofFin]
  rw [← Nat.shiftLeft_add_eq_or_of_lt n.isLt, ← Nat.shiftLeft_add_eq_or_of_lt y.isLt,
    ← Nat.shiftLeft_add_eq_or_of_lt x.isLt, Nat.shiftLeft_eq, Nat.shiftLeft_eq, Nat.shiftLeft_eq]
  omega

/-- A word given by its value is the format word of that value: the way from a spec's `0x6000 | x<<8 | kk` to fields. -/
theorem ofNat_eq_of_toNat {n : Nat} {w : Word} (h : w.toNat = n) : BitVec.ofNat 16 n = w := by
  rw [← h, BitVec.ofNat_toNat, BitVec.setWidth_eq]

/-- Every word is the XYN word of its fields. -/
theorem word_eq_formatXyn (w : Word) : w = formatXyn (fieldP w) (fieldX w) (fieldY w) (fieldN w) := by
  apply BitVec.eq_of_getLsbD_eq
  intro k hk
  simp only [formatXyn, fieldP, fieldX, fieldY, fieldN, BitVec.ofFin_toFin, BitVec.getLsbD_append,
    BitVec.getLsbD_extractLsb']
  by_cases h4 : k < 4
  · simp [h4]
  · by_cases h8 : k < 8
    · have : k - 4 < 4 := by omega
      have h : 4 + (k - 4) = k := by omega
      simp [h4, this, h]
    · by_cases h12 : k < 12
      · have h1 : ¬ k - 4 < 4 := by omega
        have h2 : k - 4 - 4 < 4 := by omega
        have h : 8 + (k - 4 - 4) = k := by omega
        simp [h4, h1, h2, h]
      · have h1 : ¬ k - 4 < 4 := by omega
        have h2 : ¬ k - 4 - 4 < 4 := by omega
        have h3 : k - 4 - 4 - 4 < 4 := by omega
        have h : 12 + (k - 4 - 4 - 4) = k := by omega
        simp [h4, h1, h2, h3, h]

/-- A word is its high byte and its low byte (`20_memory.md` R66). -/
@[simp] theorem wordOfBytes_bytes (w : Word) : wordOfBytes (highByte w) (lowByte w) = w := by
  apply BitVec.eq_of_getLsbD_eq
  intro k hk
  simp only [wordOfBytes, highByte, lowByte, BitVec.getLsbD_append, BitVec.getLsbD_extractLsb']
  by_cases h8 : k < 8
  · simp [h8]
  · have h1 : k - 8 < 8 := by omega
    have h : 8 + (k - 8) = k := by omega
    simp [h8, h1, h]

@[simp] theorem highByte_wordOfBytes (hi lo : Byte) : highByte (wordOfBytes hi lo) = hi :=
  BitVec.extractLsb'_append_eq_left

@[simp] theorem lowByte_wordOfBytes (hi lo : Byte) : lowByte (wordOfBytes hi lo) = lo :=
  BitVec.extractLsb'_append_eq_right

/-- The word's value: the byte at the lower address weighs 256 (`20_memory.md` R66). -/
theorem wordOfBytes_toNat (hi lo : Byte) : (wordOfBytes hi lo).toNat = hi.toNat * 256 + lo.toNat := by
  simp only [wordOfBytes, BitVec.toNat_append]
  rw [← Nat.shiftLeft_add_eq_or_of_lt lo.isLt, Nat.shiftLeft_eq]

/-- Two bytes always decode, to the instruction of their word and the bytes after them (`30_encoding.md` R101). -/
theorem decodeBytes_cons (hi lo : Byte) (rest : List Byte) :
    decodeBytes (hi :: lo :: rest) = .ok (decodeWord (wordOfBytes hi lo), rest) := rfl

/-- The encoder's bytes decode as the encoder's word does. -/
theorem decodeBytes_encodeBytes (i : Instr) (rest : List Byte) :
    decodeBytes (encodeBytes i ++ rest) = .ok (decodeWord (encode i), rest) := by
  simp [encodeBytes, decodeBytes]

end Sys2Proof
end

