-- ==== Sys2Proof/Laws/State.lean ====
section
/-!
SUPPORT. One lemma per field per update of State, true by definition: a proof about an instruction rewrites with these and
never unfolds a record update.
-/

namespace Sys2Proof.Machine

/-! ### setReg -/

@[simp] theorem State.setReg_v (s : State) (x : Reg) (b : Byte) : (s.setReg x b).v = s.v.set x b := rfl
@[simp] theorem State.setReg_i (s : State) (x : Reg) (b : Byte) : (s.setReg x b).i = s.i := rfl
@[simp] theorem State.setReg_pc (s : State) (x : Reg) (b : Byte) : (s.setReg x b).pc = s.pc := rfl
@[simp] theorem State.setReg_stack (s : State) (x : Reg) (b : Byte) : (s.setReg x b).stack = s.stack := rfl
@[simp] theorem State.setReg_sp (s : State) (x : Reg) (b : Byte) : (s.setReg x b).sp = s.sp := rfl
@[simp] theorem State.setReg_dt (s : State) (x : Reg) (b : Byte) : (s.setReg x b).dt = s.dt := rfl
@[simp] theorem State.setReg_st (s : State) (x : Reg) (b : Byte) : (s.setReg x b).st = s.st := rfl
@[simp] theorem State.setReg_key (s : State) (x : Reg) (b : Byte) : (s.setReg x b).key = s.key := rfl
@[simp] theorem State.setReg_ir (s : State) (x : Reg) (b : Byte) : (s.setReg x b).ir = s.ir := rfl
@[simp] theorem State.setReg_fb (s : State) (x : Reg) (b : Byte) : (s.setReg x b).fb = s.fb := rfl
@[simp] theorem State.setReg_mem (s : State) (x : Reg) (b : Byte) : (s.setReg x b).mem = s.mem := rfl
@[simp] theorem State.setReg_flt (s : State) (x : Reg) (b : Byte) : (s.setReg x b).flt = s.flt := rfl
@[simp] theorem State.setReg_fcause (s : State) (x : Reg) (b : Byte) : (s.setReg x b).fcause = s.fcause := rfl
@[simp] theorem State.setReg_fval (s : State) (x : Reg) (b : Byte) : (s.setReg x b).fval = s.fval := rfl
@[simp] theorem State.setReg_fpc (s : State) (x : Reg) (b : Byte) : (s.setReg x b).fpc = s.fpc := rfl
@[simp] theorem State.setReg_draws (s : State) (x : Reg) (b : Byte) : (s.setReg x b).draws = s.draws := rfl

/-! ### setI -/

@[simp] theorem State.setI_v (s : State) (w : Word) : (s.setI w).v = s.v := rfl
@[simp] theorem State.setI_i (s : State) (w : Word) : (s.setI w).i = w := rfl
@[simp] theorem State.setI_pc (s : State) (w : Word) : (s.setI w).pc = s.pc := rfl
@[simp] theorem State.setI_stack (s : State) (w : Word) : (s.setI w).stack = s.stack := rfl
@[simp] theorem State.setI_sp (s : State) (w : Word) : (s.setI w).sp = s.sp := rfl
@[simp] theorem State.setI_dt (s : State) (w : Word) : (s.setI w).dt = s.dt := rfl
@[simp] theorem State.setI_st (s : State) (w : Word) : (s.setI w).st = s.st := rfl
@[simp] theorem State.setI_key (s : State) (w : Word) : (s.setI w).key = s.key := rfl
@[simp] theorem State.setI_ir (s : State) (w : Word) : (s.setI w).ir = s.ir := rfl
@[simp] theorem State.setI_fb (s : State) (w : Word) : (s.setI w).fb = s.fb := rfl
@[simp] theorem State.setI_mem (s : State) (w : Word) : (s.setI w).mem = s.mem := rfl
@[simp] theorem State.setI_flt (s : State) (w : Word) : (s.setI w).flt = s.flt := rfl
@[simp] theorem State.setI_fcause (s : State) (w : Word) : (s.setI w).fcause = s.fcause := rfl
@[simp] theorem State.setI_fval (s : State) (w : Word) : (s.setI w).fval = s.fval := rfl
@[simp] theorem State.setI_fpc (s : State) (w : Word) : (s.setI w).fpc = s.fpc := rfl
@[simp] theorem State.setI_draws (s : State) (w : Word) : (s.setI w).draws = s.draws := rfl

/-! ### setPc -/

@[simp] theorem State.setPc_v (s : State) (w : Word) : (s.setPc w).v = s.v := rfl
@[simp] theorem State.setPc_i (s : State) (w : Word) : (s.setPc w).i = s.i := rfl
@[simp] theorem State.setPc_pc (s : State) (w : Word) : (s.setPc w).pc = w := rfl
@[simp] theorem State.setPc_stack (s : State) (w : Word) : (s.setPc w).stack = s.stack := rfl
@[simp] theorem State.setPc_sp (s : State) (w : Word) : (s.setPc w).sp = s.sp := rfl
@[simp] theorem State.setPc_dt (s : State) (w : Word) : (s.setPc w).dt = s.dt := rfl
@[simp] theorem State.setPc_st (s : State) (w : Word) : (s.setPc w).st = s.st := rfl
@[simp] theorem State.setPc_key (s : State) (w : Word) : (s.setPc w).key = s.key := rfl
@[simp] theorem State.setPc_ir (s : State) (w : Word) : (s.setPc w).ir = s.ir := rfl
@[simp] theorem State.setPc_fb (s : State) (w : Word) : (s.setPc w).fb = s.fb := rfl
@[simp] theorem State.setPc_mem (s : State) (w : Word) : (s.setPc w).mem = s.mem := rfl
@[simp] theorem State.setPc_flt (s : State) (w : Word) : (s.setPc w).flt = s.flt := rfl
@[simp] theorem State.setPc_fcause (s : State) (w : Word) : (s.setPc w).fcause = s.fcause := rfl
@[simp] theorem State.setPc_fval (s : State) (w : Word) : (s.setPc w).fval = s.fval := rfl
@[simp] theorem State.setPc_fpc (s : State) (w : Word) : (s.setPc w).fpc = s.fpc := rfl
@[simp] theorem State.setPc_draws (s : State) (w : Word) : (s.setPc w).draws = s.draws := rfl

/-! ### setDt -/

@[simp] theorem State.setDt_v (s : State) (b : Byte) : (s.setDt b).v = s.v := rfl
@[simp] theorem State.setDt_i (s : State) (b : Byte) : (s.setDt b).i = s.i := rfl
@[simp] theorem State.setDt_pc (s : State) (b : Byte) : (s.setDt b).pc = s.pc := rfl
@[simp] theorem State.setDt_stack (s : State) (b : Byte) : (s.setDt b).stack = s.stack := rfl
@[simp] theorem State.setDt_sp (s : State) (b : Byte) : (s.setDt b).sp = s.sp := rfl
@[simp] theorem State.setDt_dt (s : State) (b : Byte) : (s.setDt b).dt = b := rfl
@[simp] theorem State.setDt_st (s : State) (b : Byte) : (s.setDt b).st = s.st := rfl
@[simp] theorem State.setDt_key (s : State) (b : Byte) : (s.setDt b).key = s.key := rfl
@[simp] theorem State.setDt_ir (s : State) (b : Byte) : (s.setDt b).ir = s.ir := rfl
@[simp] theorem State.setDt_fb (s : State) (b : Byte) : (s.setDt b).fb = s.fb := rfl
@[simp] theorem State.setDt_mem (s : State) (b : Byte) : (s.setDt b).mem = s.mem := rfl
@[simp] theorem State.setDt_flt (s : State) (b : Byte) : (s.setDt b).flt = s.flt := rfl
@[simp] theorem State.setDt_fcause (s : State) (b : Byte) : (s.setDt b).fcause = s.fcause := rfl
@[simp] theorem State.setDt_fval (s : State) (b : Byte) : (s.setDt b).fval = s.fval := rfl
@[simp] theorem State.setDt_fpc (s : State) (b : Byte) : (s.setDt b).fpc = s.fpc := rfl
@[simp] theorem State.setDt_draws (s : State) (b : Byte) : (s.setDt b).draws = s.draws := rfl

/-! ### setSt -/

@[simp] theorem State.setSt_v (s : State) (b : Byte) : (s.setSt b).v = s.v := rfl
@[simp] theorem State.setSt_i (s : State) (b : Byte) : (s.setSt b).i = s.i := rfl
@[simp] theorem State.setSt_pc (s : State) (b : Byte) : (s.setSt b).pc = s.pc := rfl
@[simp] theorem State.setSt_stack (s : State) (b : Byte) : (s.setSt b).stack = s.stack := rfl
@[simp] theorem State.setSt_sp (s : State) (b : Byte) : (s.setSt b).sp = s.sp := rfl
@[simp] theorem State.setSt_dt (s : State) (b : Byte) : (s.setSt b).dt = s.dt := rfl
@[simp] theorem State.setSt_st (s : State) (b : Byte) : (s.setSt b).st = b := rfl
@[simp] theorem State.setSt_key (s : State) (b : Byte) : (s.setSt b).key = s.key := rfl
@[simp] theorem State.setSt_ir (s : State) (b : Byte) : (s.setSt b).ir = s.ir := rfl
@[simp] theorem State.setSt_fb (s : State) (b : Byte) : (s.setSt b).fb = s.fb := rfl
@[simp] theorem State.setSt_mem (s : State) (b : Byte) : (s.setSt b).mem = s.mem := rfl
@[simp] theorem State.setSt_flt (s : State) (b : Byte) : (s.setSt b).flt = s.flt := rfl
@[simp] theorem State.setSt_fcause (s : State) (b : Byte) : (s.setSt b).fcause = s.fcause := rfl
@[simp] theorem State.setSt_fval (s : State) (b : Byte) : (s.setSt b).fval = s.fval := rfl
@[simp] theorem State.setSt_fpc (s : State) (b : Byte) : (s.setSt b).fpc = s.fpc := rfl
@[simp] theorem State.setSt_draws (s : State) (b : Byte) : (s.setSt b).draws = s.draws := rfl

/-! ### setFb -/

@[simp] theorem State.setFb_v (s : State) (f : Display) : (s.setFb f).v = s.v := rfl
@[simp] theorem State.setFb_i (s : State) (f : Display) : (s.setFb f).i = s.i := rfl
@[simp] theorem State.setFb_pc (s : State) (f : Display) : (s.setFb f).pc = s.pc := rfl
@[simp] theorem State.setFb_stack (s : State) (f : Display) : (s.setFb f).stack = s.stack := rfl
@[simp] theorem State.setFb_sp (s : State) (f : Display) : (s.setFb f).sp = s.sp := rfl
@[simp] theorem State.setFb_dt (s : State) (f : Display) : (s.setFb f).dt = s.dt := rfl
@[simp] theorem State.setFb_st (s : State) (f : Display) : (s.setFb f).st = s.st := rfl
@[simp] theorem State.setFb_key (s : State) (f : Display) : (s.setFb f).key = s.key := rfl
@[simp] theorem State.setFb_ir (s : State) (f : Display) : (s.setFb f).ir = s.ir := rfl
@[simp] theorem State.setFb_fb (s : State) (f : Display) : (s.setFb f).fb = f := rfl
@[simp] theorem State.setFb_mem (s : State) (f : Display) : (s.setFb f).mem = s.mem := rfl
@[simp] theorem State.setFb_flt (s : State) (f : Display) : (s.setFb f).flt = s.flt := rfl
@[simp] theorem State.setFb_fcause (s : State) (f : Display) : (s.setFb f).fcause = s.fcause := rfl
@[simp] theorem State.setFb_fval (s : State) (f : Display) : (s.setFb f).fval = s.fval := rfl
@[simp] theorem State.setFb_fpc (s : State) (f : Display) : (s.setFb f).fpc = s.fpc := rfl
@[simp] theorem State.setFb_draws (s : State) (f : Display) : (s.setFb f).draws = s.draws := rfl

/-! ### setMem -/

@[simp] theorem State.setMem_v (s : State) (m : Memory) : (s.setMem m).v = s.v := rfl
@[simp] theorem State.setMem_i (s : State) (m : Memory) : (s.setMem m).i = s.i := rfl
@[simp] theorem State.setMem_pc (s : State) (m : Memory) : (s.setMem m).pc = s.pc := rfl
@[simp] theorem State.setMem_stack (s : State) (m : Memory) : (s.setMem m).stack = s.stack := rfl
@[simp] theorem State.setMem_sp (s : State) (m : Memory) : (s.setMem m).sp = s.sp := rfl
@[simp] theorem State.setMem_dt (s : State) (m : Memory) : (s.setMem m).dt = s.dt := rfl
@[simp] theorem State.setMem_st (s : State) (m : Memory) : (s.setMem m).st = s.st := rfl
@[simp] theorem State.setMem_key (s : State) (m : Memory) : (s.setMem m).key = s.key := rfl
@[simp] theorem State.setMem_ir (s : State) (m : Memory) : (s.setMem m).ir = s.ir := rfl
@[simp] theorem State.setMem_fb (s : State) (m : Memory) : (s.setMem m).fb = s.fb := rfl
@[simp] theorem State.setMem_mem (s : State) (m : Memory) : (s.setMem m).mem = m := rfl
@[simp] theorem State.setMem_flt (s : State) (m : Memory) : (s.setMem m).flt = s.flt := rfl
@[simp] theorem State.setMem_fcause (s : State) (m : Memory) : (s.setMem m).fcause = s.fcause := rfl
@[simp] theorem State.setMem_fval (s : State) (m : Memory) : (s.setMem m).fval = s.fval := rfl
@[simp] theorem State.setMem_fpc (s : State) (m : Memory) : (s.setMem m).fpc = s.fpc := rfl
@[simp] theorem State.setMem_draws (s : State) (m : Memory) : (s.setMem m).draws = s.draws := rfl

/-! ### setRegs -/

@[simp] theorem State.setRegs_v (s : State) (v : Vector Byte 16) : (s.setRegs v).v = v := rfl
@[simp] theorem State.setRegs_i (s : State) (v : Vector Byte 16) : (s.setRegs v).i = s.i := rfl
@[simp] theorem State.setRegs_pc (s : State) (v : Vector Byte 16) : (s.setRegs v).pc = s.pc := rfl
@[simp] theorem State.setRegs_stack (s : State) (v : Vector Byte 16) : (s.setRegs v).stack = s.stack := rfl
@[simp] theorem State.setRegs_sp (s : State) (v : Vector Byte 16) : (s.setRegs v).sp = s.sp := rfl
@[simp] theorem State.setRegs_dt (s : State) (v : Vector Byte 16) : (s.setRegs v).dt = s.dt := rfl
@[simp] theorem State.setRegs_st (s : State) (v : Vector Byte 16) : (s.setRegs v).st = s.st := rfl
@[simp] theorem State.setRegs_key (s : State) (v : Vector Byte 16) : (s.setRegs v).key = s.key := rfl
@[simp] theorem State.setRegs_ir (s : State) (v : Vector Byte 16) : (s.setRegs v).ir = s.ir := rfl
@[simp] theorem State.setRegs_fb (s : State) (v : Vector Byte 16) : (s.setRegs v).fb = s.fb := rfl
@[simp] theorem State.setRegs_mem (s : State) (v : Vector Byte 16) : (s.setRegs v).mem = s.mem := rfl
@[simp] theorem State.setRegs_flt (s : State) (v : Vector Byte 16) : (s.setRegs v).flt = s.flt := rfl
@[simp] theorem State.setRegs_fcause (s : State) (v : Vector Byte 16) : (s.setRegs v).fcause = s.fcause := rfl
@[simp] theorem State.setRegs_fval (s : State) (v : Vector Byte 16) : (s.setRegs v).fval = s.fval := rfl
@[simp] theorem State.setRegs_fpc (s : State) (v : Vector Byte 16) : (s.setRegs v).fpc = s.fpc := rfl
@[simp] theorem State.setRegs_draws (s : State) (v : Vector Byte 16) : (s.setRegs v).draws = s.draws := rfl

/-! ### countDraw -/

@[simp] theorem State.countDraw_v (s : State) : (s.countDraw).v = s.v := rfl
@[simp] theorem State.countDraw_i (s : State) : (s.countDraw).i = s.i := rfl
@[simp] theorem State.countDraw_pc (s : State) : (s.countDraw).pc = s.pc := rfl
@[simp] theorem State.countDraw_stack (s : State) : (s.countDraw).stack = s.stack := rfl
@[simp] theorem State.countDraw_sp (s : State) : (s.countDraw).sp = s.sp := rfl
@[simp] theorem State.countDraw_dt (s : State) : (s.countDraw).dt = s.dt := rfl
@[simp] theorem State.countDraw_st (s : State) : (s.countDraw).st = s.st := rfl
@[simp] theorem State.countDraw_key (s : State) : (s.countDraw).key = s.key := rfl
@[simp] theorem State.countDraw_ir (s : State) : (s.countDraw).ir = s.ir := rfl
@[simp] theorem State.countDraw_fb (s : State) : (s.countDraw).fb = s.fb := rfl
@[simp] theorem State.countDraw_mem (s : State) : (s.countDraw).mem = s.mem := rfl
@[simp] theorem State.countDraw_flt (s : State) : (s.countDraw).flt = s.flt := rfl
@[simp] theorem State.countDraw_fcause (s : State) : (s.countDraw).fcause = s.fcause := rfl
@[simp] theorem State.countDraw_fval (s : State) : (s.countDraw).fval = s.fval := rfl
@[simp] theorem State.countDraw_fpc (s : State) : (s.countDraw).fpc = s.fpc := rfl
@[simp] theorem State.countDraw_draws (s : State) : (s.countDraw).draws = s.draws + 1 := rfl

/-! ### pushAndJump -/

@[simp] theorem State.pushAndJump_v (s : State) (h : s.sp.toNat < 16) (w : Word) : (s.pushAndJump h w).v = s.v := rfl
@[simp] theorem State.pushAndJump_i (s : State) (h : s.sp.toNat < 16) (w : Word) : (s.pushAndJump h w).i = s.i := rfl
@[simp] theorem State.pushAndJump_pc (s : State) (h : s.sp.toNat < 16) (w : Word) : (s.pushAndJump h w).pc = w := rfl
@[simp] theorem State.pushAndJump_stack (s : State) (h : s.sp.toNat < 16) (w : Word) : (s.pushAndJump h w).stack = s.stack.set s.sp.toNat s.pc h := rfl
@[simp] theorem State.pushAndJump_sp (s : State) (h : s.sp.toNat < 16) (w : Word) : (s.pushAndJump h w).sp = s.sp + 1 := rfl
@[simp] theorem State.pushAndJump_dt (s : State) (h : s.sp.toNat < 16) (w : Word) : (s.pushAndJump h w).dt = s.dt := rfl
@[simp] theorem State.pushAndJump_st (s : State) (h : s.sp.toNat < 16) (w : Word) : (s.pushAndJump h w).st = s.st := rfl
@[simp] theorem State.pushAndJump_key (s : State) (h : s.sp.toNat < 16) (w : Word) : (s.pushAndJump h w).key = s.key := rfl
@[simp] theorem State.pushAndJump_ir (s : State) (h : s.sp.toNat < 16) (w : Word) : (s.pushAndJump h w).ir = s.ir := rfl
@[simp] theorem State.pushAndJump_fb (s : State) (h : s.sp.toNat < 16) (w : Word) : (s.pushAndJump h w).fb = s.fb := rfl
@[simp] theorem State.pushAndJump_mem (s : State) (h : s.sp.toNat < 16) (w : Word) : (s.pushAndJump h w).mem = s.mem := rfl
@[simp] theorem State.pushAndJump_flt (s : State) (h : s.sp.toNat < 16) (w : Word) : (s.pushAndJump h w).flt = s.flt := rfl
@[simp] theorem State.pushAndJump_fcause (s : State) (h : s.sp.toNat < 16) (w : Word) : (s.pushAndJump h w).fcause = s.fcause := rfl
@[simp] theorem State.pushAndJump_fval (s : State) (h : s.sp.toNat < 16) (w : Word) : (s.pushAndJump h w).fval = s.fval := rfl
@[simp] theorem State.pushAndJump_fpc (s : State) (h : s.sp.toNat < 16) (w : Word) : (s.pushAndJump h w).fpc = s.fpc := rfl
@[simp] theorem State.pushAndJump_draws (s : State) (h : s.sp.toNat < 16) (w : Word) : (s.pushAndJump h w).draws = s.draws := rfl

/-! ### popAndJump -/

@[simp] theorem State.popAndJump_v (s : State) (h : 1 ≤ s.sp.toNat ∧ s.sp.toNat ≤ 16) : (s.popAndJump h).v = s.v := rfl
@[simp] theorem State.popAndJump_i (s : State) (h : 1 ≤ s.sp.toNat ∧ s.sp.toNat ≤ 16) : (s.popAndJump h).i = s.i := rfl
@[simp] theorem State.popAndJump_pc (s : State) (h : 1 ≤ s.sp.toNat ∧ s.sp.toNat ≤ 16) : (s.popAndJump h).pc = s.stack[s.sp.toNat - 1] := rfl
@[simp] theorem State.popAndJump_stack (s : State) (h : 1 ≤ s.sp.toNat ∧ s.sp.toNat ≤ 16) : (s.popAndJump h).stack = s.stack := rfl
@[simp] theorem State.popAndJump_sp (s : State) (h : 1 ≤ s.sp.toNat ∧ s.sp.toNat ≤ 16) : (s.popAndJump h).sp = s.sp - 1 := rfl
@[simp] theorem State.popAndJump_dt (s : State) (h : 1 ≤ s.sp.toNat ∧ s.sp.toNat ≤ 16) : (s.popAndJump h).dt = s.dt := rfl
@[simp] theorem State.popAndJump_st (s : State) (h : 1 ≤ s.sp.toNat ∧ s.sp.toNat ≤ 16) : (s.popAndJump h).st = s.st := rfl
@[simp] theorem State.popAndJump_key (s : State) (h : 1 ≤ s.sp.toNat ∧ s.sp.toNat ≤ 16) : (s.popAndJump h).key = s.key := rfl
@[simp] theorem State.popAndJump_ir (s : State) (h : 1 ≤ s.sp.toNat ∧ s.sp.toNat ≤ 16) : (s.popAndJump h).ir = s.ir := rfl
@[simp] theorem State.popAndJump_fb (s : State) (h : 1 ≤ s.sp.toNat ∧ s.sp.toNat ≤ 16) : (s.popAndJump h).fb = s.fb := rfl
@[simp] theorem State.popAndJump_mem (s : State) (h : 1 ≤ s.sp.toNat ∧ s.sp.toNat ≤ 16) : (s.popAndJump h).mem = s.mem := rfl
@[simp] theorem State.popAndJump_flt (s : State) (h : 1 ≤ s.sp.toNat ∧ s.sp.toNat ≤ 16) : (s.popAndJump h).flt = s.flt := rfl
@[simp] theorem State.popAndJump_fcause (s : State) (h : 1 ≤ s.sp.toNat ∧ s.sp.toNat ≤ 16) : (s.popAndJump h).fcause = s.fcause := rfl
@[simp] theorem State.popAndJump_fval (s : State) (h : 1 ≤ s.sp.toNat ∧ s.sp.toNat ≤ 16) : (s.popAndJump h).fval = s.fval := rfl
@[simp] theorem State.popAndJump_fpc (s : State) (h : 1 ≤ s.sp.toNat ∧ s.sp.toNat ≤ 16) : (s.popAndJump h).fpc = s.fpc := rfl
@[simp] theorem State.popAndJump_draws (s : State) (h : 1 ≤ s.sp.toNat ∧ s.sp.toNat ≤ 16) : (s.popAndJump h).draws = s.draws := rfl

/-! ### withLatchOf -/

@[simp] theorem State.withLatchOf_v (s : State) (t : State) : (s.withLatchOf t).v = s.v := rfl
@[simp] theorem State.withLatchOf_i (s : State) (t : State) : (s.withLatchOf t).i = s.i := rfl
@[simp] theorem State.withLatchOf_pc (s : State) (t : State) : (s.withLatchOf t).pc = s.pc := rfl
@[simp] theorem State.withLatchOf_stack (s : State) (t : State) : (s.withLatchOf t).stack = s.stack := rfl
@[simp] theorem State.withLatchOf_sp (s : State) (t : State) : (s.withLatchOf t).sp = s.sp := rfl
@[simp] theorem State.withLatchOf_dt (s : State) (t : State) : (s.withLatchOf t).dt = s.dt := rfl
@[simp] theorem State.withLatchOf_st (s : State) (t : State) : (s.withLatchOf t).st = s.st := rfl
@[simp] theorem State.withLatchOf_key (s : State) (t : State) : (s.withLatchOf t).key = s.key := rfl
@[simp] theorem State.withLatchOf_ir (s : State) (t : State) : (s.withLatchOf t).ir = s.ir := rfl
@[simp] theorem State.withLatchOf_fb (s : State) (t : State) : (s.withLatchOf t).fb = s.fb := rfl
@[simp] theorem State.withLatchOf_mem (s : State) (t : State) : (s.withLatchOf t).mem = s.mem := rfl
@[simp] theorem State.withLatchOf_flt (s : State) (t : State) : (s.withLatchOf t).flt = t.flt := rfl
@[simp] theorem State.withLatchOf_fcause (s : State) (t : State) : (s.withLatchOf t).fcause = t.fcause := rfl
@[simp] theorem State.withLatchOf_fval (s : State) (t : State) : (s.withLatchOf t).fval = t.fval := rfl
@[simp] theorem State.withLatchOf_fpc (s : State) (t : State) : (s.withLatchOf t).fpc = t.fpc := rfl
@[simp] theorem State.withLatchOf_draws (s : State) (t : State) : (s.withLatchOf t).draws = s.draws := rfl

/-! ### clearLatch -/

@[simp] theorem State.clearLatch_v (s : State) : (s.clearLatch).v = s.v := rfl
@[simp] theorem State.clearLatch_i (s : State) : (s.clearLatch).i = s.i := rfl
@[simp] theorem State.clearLatch_pc (s : State) : (s.clearLatch).pc = s.pc := rfl
@[simp] theorem State.clearLatch_stack (s : State) : (s.clearLatch).stack = s.stack := rfl
@[simp] theorem State.clearLatch_sp (s : State) : (s.clearLatch).sp = s.sp := rfl
@[simp] theorem State.clearLatch_dt (s : State) : (s.clearLatch).dt = s.dt := rfl
@[simp] theorem State.clearLatch_st (s : State) : (s.clearLatch).st = s.st := rfl
@[simp] theorem State.clearLatch_key (s : State) : (s.clearLatch).key = s.key := rfl
@[simp] theorem State.clearLatch_ir (s : State) : (s.clearLatch).ir = s.ir := rfl
@[simp] theorem State.clearLatch_fb (s : State) : (s.clearLatch).fb = s.fb := rfl
@[simp] theorem State.clearLatch_mem (s : State) : (s.clearLatch).mem = s.mem := rfl
@[simp] theorem State.clearLatch_flt (s : State) : (s.clearLatch).flt = false := rfl
@[simp] theorem State.clearLatch_fcause (s : State) : (s.clearLatch).fcause = 0 := rfl
@[simp] theorem State.clearLatch_fval (s : State) : (s.clearLatch).fval = 0 := rfl
@[simp] theorem State.clearLatch_fpc (s : State) : (s.clearLatch).fpc = 0 := rfl
@[simp] theorem State.clearLatch_draws (s : State) : (s.clearLatch).draws = s.draws := rfl

/-! ### fetched -/

@[simp] theorem State.fetched_v (s : State) : (s.fetched).v = s.v := rfl
@[simp] theorem State.fetched_i (s : State) : (s.fetched).i = s.i := rfl
@[simp] theorem State.fetched_pc (s : State) : (s.fetched).pc = s.pc + 2 := rfl
@[simp] theorem State.fetched_stack (s : State) : (s.fetched).stack = s.stack := rfl
@[simp] theorem State.fetched_sp (s : State) : (s.fetched).sp = s.sp := rfl
@[simp] theorem State.fetched_dt (s : State) : (s.fetched).dt = s.dt := rfl
@[simp] theorem State.fetched_st (s : State) : (s.fetched).st = s.st := rfl
@[simp] theorem State.fetched_key (s : State) : (s.fetched).key = s.key := rfl
@[simp] theorem State.fetched_ir (s : State) : (s.fetched).ir = s.fetchWord := rfl
@[simp] theorem State.fetched_fb (s : State) : (s.fetched).fb = s.fb := rfl
@[simp] theorem State.fetched_mem (s : State) : (s.fetched).mem = s.mem := rfl
@[simp] theorem State.fetched_flt (s : State) : (s.fetched).flt = s.flt := rfl
@[simp] theorem State.fetched_fcause (s : State) : (s.fetched).fcause = s.fcause := rfl
@[simp] theorem State.fetched_fval (s : State) : (s.fetched).fval = s.fval := rfl
@[simp] theorem State.fetched_fpc (s : State) : (s.fetched).fpc = s.fpc := rfl
@[simp] theorem State.fetched_draws (s : State) : (s.fetched).draws = s.draws := rfl

/-! ### tick -/

@[simp] theorem State.tick_v (s : State) : (s.tick).v = s.v := rfl
@[simp] theorem State.tick_i (s : State) : (s.tick).i = s.i := rfl
@[simp] theorem State.tick_pc (s : State) : (s.tick).pc = s.pc := rfl
@[simp] theorem State.tick_stack (s : State) : (s.tick).stack = s.stack := rfl
@[simp] theorem State.tick_sp (s : State) : (s.tick).sp = s.sp := rfl
@[simp] theorem State.tick_dt (s : State) : (s.tick).dt = tickTimer s.dt := rfl
@[simp] theorem State.tick_st (s : State) : (s.tick).st = tickTimer s.st := rfl
@[simp] theorem State.tick_key (s : State) : (s.tick).key = s.key := rfl
@[simp] theorem State.tick_ir (s : State) : (s.tick).ir = s.ir := rfl
@[simp] theorem State.tick_fb (s : State) : (s.tick).fb = s.fb := rfl
@[simp] theorem State.tick_mem (s : State) : (s.tick).mem = s.mem := rfl
@[simp] theorem State.tick_flt (s : State) : (s.tick).flt = s.flt := rfl
@[simp] theorem State.tick_fcause (s : State) : (s.tick).fcause = s.fcause := rfl
@[simp] theorem State.tick_fval (s : State) : (s.tick).fval = s.fval := rfl
@[simp] theorem State.tick_fpc (s : State) : (s.tick).fpc = s.fpc := rfl
@[simp] theorem State.tick_draws (s : State) : (s.tick).draws = s.draws := rfl

/-! ### raiseFault -/

@[simp] theorem raiseFault_v (c : Fault) (n : Nat) (w : Word) (s : State) : (raiseFault c n w s).v = s.v := rfl
@[simp] theorem raiseFault_i (c : Fault) (n : Nat) (w : Word) (s : State) : (raiseFault c n w s).i = s.i := rfl
@[simp] theorem raiseFault_pc (c : Fault) (n : Nat) (w : Word) (s : State) : (raiseFault c n w s).pc = w := rfl
@[simp] theorem raiseFault_stack (c : Fault) (n : Nat) (w : Word) (s : State) : (raiseFault c n w s).stack = s.stack := rfl
@[simp] theorem raiseFault_sp (c : Fault) (n : Nat) (w : Word) (s : State) : (raiseFault c n w s).sp = s.sp := rfl
@[simp] theorem raiseFault_dt (c : Fault) (n : Nat) (w : Word) (s : State) : (raiseFault c n w s).dt = s.dt := rfl
@[simp] theorem raiseFault_st (c : Fault) (n : Nat) (w : Word) (s : State) : (raiseFault c n w s).st = s.st := rfl
@[simp] theorem raiseFault_key (c : Fault) (n : Nat) (w : Word) (s : State) : (raiseFault c n w s).key = s.key := rfl
@[simp] theorem raiseFault_ir (c : Fault) (n : Nat) (w : Word) (s : State) : (raiseFault c n w s).ir = s.ir := rfl
@[simp] theorem raiseFault_fb (c : Fault) (n : Nat) (w : Word) (s : State) : (raiseFault c n w s).fb = s.fb := rfl
@[simp] theorem raiseFault_mem (c : Fault) (n : Nat) (w : Word) (s : State) : (raiseFault c n w s).mem = s.mem := rfl
@[simp] theorem raiseFault_flt (c : Fault) (n : Nat) (w : Word) (s : State) : (raiseFault c n w s).flt = true := rfl
@[simp] theorem raiseFault_fcause (c : Fault) (n : Nat) (w : Word) (s : State) : (raiseFault c n w s).fcause = c.code := rfl
@[simp] theorem raiseFault_fval (c : Fault) (n : Nat) (w : Word) (s : State) : (raiseFault c n w s).fval = BitVec.ofNat 16 (n % 65536) := rfl
@[simp] theorem raiseFault_fpc (c : Fault) (n : Nat) (w : Word) (s : State) : (raiseFault c n w s).fpc = w := rfl
@[simp] theorem raiseFault_draws (c : Fault) (n : Nat) (w : Word) (s : State) : (raiseFault c n w s).draws = s.draws := rfl

/-! ### reset -/

@[simp] theorem State.reset_v : State.reset.v = Vector.replicate 16 0 := rfl
@[simp] theorem State.reset_i : State.reset.i = 0 := rfl
@[simp] theorem State.reset_pc : State.reset.pc = 0x0200 := rfl
@[simp] theorem State.reset_stack : State.reset.stack = Vector.replicate 16 0 := rfl
@[simp] theorem State.reset_sp : State.reset.sp = 0 := rfl
@[simp] theorem State.reset_dt : State.reset.dt = 0 := rfl
@[simp] theorem State.reset_st : State.reset.st = 0 := rfl
@[simp] theorem State.reset_key : State.reset.key = Vector.replicate 16 false := rfl
@[simp] theorem State.reset_ir : State.reset.ir = 0 := rfl
@[simp] theorem State.reset_fb : State.reset.fb = Vector.replicate 32 (Vector.replicate 64 false) := rfl
@[simp] theorem State.reset_mem : State.reset.mem = [] := rfl
@[simp] theorem State.reset_flt : State.reset.flt = false := rfl
@[simp] theorem State.reset_fcause : State.reset.fcause = 0 := rfl
@[simp] theorem State.reset_fval : State.reset.fval = 0 := rfl
@[simp] theorem State.reset_fpc : State.reset.fpc = 0 := rfl

/-! ### The reads that are not fields -/

theorem State.reg_def (s : State) (x : Reg) : s.reg x = s.v[x] := rfl

theorem State.readByte_def (s : State) (a : Nat) : s.readByte a = s.mem.read a := rfl

theorem State.cell_def (s : State) (r : Fin 32) (c : Fin 64) : s.cell r c = s.fb[r][c] := rfl

/-- A register read after a register write. -/
@[simp] theorem State.reg_setReg (s : State) (x y : Reg) (b : Byte) :
    (s.setReg x b).reg y = if x = y then b else s.reg y := by
  simp only [State.reg, State.setReg, Fin.getElem_fin, Vector.getElem_set, Fin.ext_iff]

@[simp] theorem State.reg_setReg_same (s : State) (x : Reg) (b : Byte) : (s.setReg x b).reg x = b := by
  simp

theorem State.reg_setReg_other (s : State) (x y : Reg) (b : Byte) (h : x ≠ y) : (s.setReg x b).reg y = s.reg y := by
  simp [h]

@[simp] theorem State.readByte_setReg (s : State) (x : Reg) (b : Byte) (a : Nat) : (s.setReg x b).readByte a = s.readByte a := rfl
@[simp] theorem State.cell_setReg (s : State) (x : Reg) (b : Byte) (r : Fin 32) (c : Fin 64) : (s.setReg x b).cell r c = s.cell r c := rfl
@[simp] theorem State.reg_setI (s : State) (w : Word) (r : Reg) : (s.setI w).reg r = s.reg r := rfl
@[simp] theorem State.readByte_setI (s : State) (w : Word) (a : Nat) : (s.setI w).readByte a = s.readByte a := rfl
@[simp] theorem State.cell_setI (s : State) (w : Word) (r : Fin 32) (c : Fin 64) : (s.setI w).cell r c = s.cell r c := rfl
@[simp] theorem State.reg_setPc (s : State) (w : Word) (r : Reg) : (s.setPc w).reg r = s.reg r := rfl
@[simp] theorem State.readByte_setPc (s : State) (w : Word) (a : Nat) : (s.setPc w).readByte a = s.readByte a := rfl
@[simp] theorem State.cell_setPc (s : State) (w : Word) (r : Fin 32) (c : Fin 64) : (s.setPc w).cell r c = s.cell r c := rfl
@[simp] theorem State.reg_setDt (s : State) (b : Byte) (r : Reg) : (s.setDt b).reg r = s.reg r := rfl
@[simp] theorem State.readByte_setDt (s : State) (b : Byte) (a : Nat) : (s.setDt b).readByte a = s.readByte a := rfl
@[simp] theorem State.cell_setDt (s : State) (b : Byte) (r : Fin 32) (c : Fin 64) : (s.setDt b).cell r c = s.cell r c := rfl
@[simp] theorem State.reg_setSt (s : State) (b : Byte) (r : Reg) : (s.setSt b).reg r = s.reg r := rfl
@[simp] theorem State.readByte_setSt (s : State) (b : Byte) (a : Nat) : (s.setSt b).readByte a = s.readByte a := rfl
@[simp] theorem State.cell_setSt (s : State) (b : Byte) (r : Fin 32) (c : Fin 64) : (s.setSt b).cell r c = s.cell r c := rfl
@[simp] theorem State.reg_setFb (s : State) (f : Display) (r : Reg) : (s.setFb f).reg r = s.reg r := rfl
@[simp] theorem State.readByte_setFb (s : State) (f : Display) (a : Nat) : (s.setFb f).readByte a = s.readByte a := rfl
@[simp] theorem State.reg_setMem (s : State) (m : Memory) (r : Reg) : (s.setMem m).reg r = s.reg r := rfl
@[simp] theorem State.cell_setMem (s : State) (m : Memory) (r : Fin 32) (c : Fin 64) : (s.setMem m).cell r c = s.cell r c := rfl
@[simp] theorem State.readByte_setRegs (s : State) (v : Vector Byte 16) (a : Nat) : (s.setRegs v).readByte a = s.readByte a := rfl
@[simp] theorem State.cell_setRegs (s : State) (v : Vector Byte 16) (r : Fin 32) (c : Fin 64) : (s.setRegs v).cell r c = s.cell r c := rfl
@[simp] theorem State.reg_countDraw (s : State) (r : Reg) : (s.countDraw).reg r = s.reg r := rfl
@[simp] theorem State.readByte_countDraw (s : State) (a : Nat) : (s.countDraw).readByte a = s.readByte a := rfl
@[simp] theorem State.cell_countDraw (s : State) (r : Fin 32) (c : Fin 64) : (s.countDraw).cell r c = s.cell r c := rfl
@[simp] theorem State.reg_pushAndJump (s : State) (h : s.sp.toNat < 16) (w : Word) (r : Reg) : (s.pushAndJump h w).reg r = s.reg r := rfl
@[simp] theorem State.readByte_pushAndJump (s : State) (h : s.sp.toNat < 16) (w : Word) (a : Nat) : (s.pushAndJump h w).readByte a = s.readByte a := rfl
@[simp] theorem State.cell_pushAndJump (s : State) (h : s.sp.toNat < 16) (w : Word) (r : Fin 32) (c : Fin 64) : (s.pushAndJump h w).cell r c = s.cell r c := rfl
@[simp] theorem State.reg_popAndJump (s : State) (h : 1 ≤ s.sp.toNat ∧ s.sp.toNat ≤ 16) (r : Reg) : (s.popAndJump h).reg r = s.reg r := rfl
@[simp] theorem State.readByte_popAndJump (s : State) (h : 1 ≤ s.sp.toNat ∧ s.sp.toNat ≤ 16) (a : Nat) : (s.popAndJump h).readByte a = s.readByte a := rfl
@[simp] theorem State.cell_popAndJump (s : State) (h : 1 ≤ s.sp.toNat ∧ s.sp.toNat ≤ 16) (r : Fin 32) (c : Fin 64) : (s.popAndJump h).cell r c = s.cell r c := rfl
@[simp] theorem State.reg_withLatchOf (s : State) (t : State) (r : Reg) : (s.withLatchOf t).reg r = s.reg r := rfl
@[simp] theorem State.readByte_withLatchOf (s : State) (t : State) (a : Nat) : (s.withLatchOf t).readByte a = s.readByte a := rfl
@[simp] theorem State.cell_withLatchOf (s : State) (t : State) (r : Fin 32) (c : Fin 64) : (s.withLatchOf t).cell r c = s.cell r c := rfl
@[simp] theorem State.reg_clearLatch (s : State) (r : Reg) : (s.clearLatch).reg r = s.reg r := rfl
@[simp] theorem State.readByte_clearLatch (s : State) (a : Nat) : (s.clearLatch).readByte a = s.readByte a := rfl
@[simp] theorem State.cell_clearLatch (s : State) (r : Fin 32) (c : Fin 64) : (s.clearLatch).cell r c = s.cell r c := rfl
@[simp] theorem State.reg_fetched (s : State) (r : Reg) : (s.fetched).reg r = s.reg r := rfl
@[simp] theorem State.readByte_fetched (s : State) (a : Nat) : (s.fetched).readByte a = s.readByte a := rfl
@[simp] theorem State.cell_fetched (s : State) (r : Fin 32) (c : Fin 64) : (s.fetched).cell r c = s.cell r c := rfl
@[simp] theorem State.reg_tick (s : State) (r : Reg) : (s.tick).reg r = s.reg r := rfl
@[simp] theorem State.readByte_tick (s : State) (a : Nat) : (s.tick).readByte a = s.readByte a := rfl
@[simp] theorem State.cell_tick (s : State) (r : Fin 32) (c : Fin 64) : (s.tick).cell r c = s.cell r c := rfl

@[simp] theorem State.readByte_setMem (s : State) (m : Memory) (a : Nat) : (s.setMem m).readByte a = m.read a := rfl

@[simp] theorem State.cell_setFb (s : State) (f : Display) (r : Fin 32) (c : Fin 64) :
    (s.setFb f).cell r c = f[r][c] := rfl

@[simp] theorem State.reg_setRegs (s : State) (v : Vector Byte 16) (r : Reg) : (s.setRegs v).reg r = v[r] := rfl

end Sys2Proof.Machine
end

