-- ==== Sys2Proof/Laws/Display.lean ====
section
/-!
SUPPORT. What the display operations do to one cell.
-/

namespace Sys2Proof.Machine

/-- Every cell of the cleared display is off (`41_family_0.md` R140). -/
@[simp] theorem blankDisplay_cell (r : Fin 32) (c : Fin 64) : blankDisplay[r][c] = false := by
  simp [blankDisplay]

/-- A toggle flips its own cell and leaves every other alone. -/
theorem toggleCell_cell (f : Display) (r r' : Fin 32) (c c' : Fin 64) :
    (toggleCell f r c)[r'][c'] = if r' = r ∧ c' = c then !f[r'][c'] else f[r'][c'] := by
  by_cases hr : r = r'
  · subst hr
    by_cases hc : c = c'
    · subst hc; simp [toggleCell]
    · have hc' : ¬ c.val = c'.val := fun h => hc (Fin.ext h)
      simp [toggleCell, hc', Ne.symm hc]
  · have hr' : ¬ r.val = r'.val := fun h => hr (Fin.ext h)
    simp [toggleCell, hr', Ne.symm hr]

/-- One sprite bit: a set bit flips its cell and records whether it was on; a clear bit does nothing. -/
theorem drawBit_cell (x0 y0 : Byte) (row : Nat) (b : Byte) (acc : Display × Bool) (col : Nat) (r : Fin 32) (c : Fin 64) :
    (drawBit x0 y0 row b acc col).1[r][c] =
      (acc.1[r][c] != (b.getLsbD (7 - col) && decide (r = drawRow y0 row ∧ c = drawCol x0 col))) := by
  unfold drawBit
  split
  · rename_i hb
    simp only [toggleCell_cell, hb, Bool.true_and]
    by_cases h : r = drawRow y0 row ∧ c = drawCol x0 col <;> simp [h]
  · rename_i hb
    simp [hb]

theorem drawBit_collided (x0 y0 : Byte) (row : Nat) (b : Byte) (acc : Display × Bool) (col : Nat) :
    (drawBit x0 y0 row b acc col).2 =
      (acc.2 || (b.getLsbD (7 - col) && acc.1[drawRow y0 row][drawCol x0 col])) := by
  unfold drawBit
  split <;> rename_i hb <;> simp [hb]

/-- A sprite row is its eight bits in turn. -/
theorem drawByte_eq (x0 y0 : Byte) (row : Nat) (b : Byte) (acc : Display × Bool) :
    drawByte x0 y0 row b acc = [0, 1, 2, 3, 4, 5, 6, 7].foldl (drawBit x0 y0 row b) acc := rfl

theorem drawRows_nil (x0 y0 : Byte) (row : Nat) (acc : Display × Bool) : drawRows x0 y0 row [] acc = acc := rfl

theorem drawRows_cons (x0 y0 : Byte) (row : Nat) (b : Byte) (bs : List Byte) (acc : Display × Bool) :
    drawRows x0 y0 row (b :: bs) acc = drawRows x0 y0 (row + 1) bs (drawByte x0 y0 row b acc) := rfl

/-- A sprite of no rows draws nothing and collides with nothing (`44_family_9_to_D.md` R194). -/
theorem drawSprite_nil (x0 y0 : Byte) (f : Display) : drawSprite x0 y0 [] f = (f, false) := rfl

end Sys2Proof.Machine
end

