-- ==== Sys2Proof/Laws/Memory.lean ====
section
/-!
SUPPORT. The laws of memory: a read after a write, a block store read back, and that every operation keeps the canonical
form (`20_memory.md` R60, R70; assumption 9).
-/

namespace Sys2Proof.Machine

/-- An address below every listed one reads as its reset contents. -/
theorem Memory.read_below {lo : Nat} {m : Memory} (h : Memory.wfFrom lo m = true) {a : Nat} (ha : a < lo) :
    m.read a = unlistedByte a := by
  induction m generalizing lo with
  | nil => rfl
  | cons c rest ih =>
    obtain ⟨b, u⟩ := c
    simp only [Memory.wfFrom, Bool.and_eq_true, decide_eq_true_eq] at h
    have hne : a ≠ b := by omega
    simp only [Memory.read, hne, if_false]
    exact ih h.2 (by omega)

/-- A lower bound may be lowered. -/
theorem Memory.wfFrom_mono {lo lo' : Nat} {m : Memory} (h : Memory.wfFrom lo m = true) (hl : lo' ≤ lo) :
    Memory.wfFrom lo' m = true := by
  cases m with
  | nil => rfl
  | cons c rest =>
    obtain ⟨b, u⟩ := c
    simp only [Memory.wfFrom, Bool.and_eq_true, decide_eq_true_eq] at h ⊢
    exact ⟨⟨⟨by omega, h.1.1.2⟩, h.1.2⟩, h.2⟩

/-- The byte written is the byte read, and every other address reads as before. -/
theorem Memory.read_write_from {lo : Nat} {m : Memory} (h : Memory.wfFrom lo m = true) (a : Nat) (u : Byte) (b : Nat) :
    (m.write a u).read b = if b = a then u else m.read b := by
  induction m generalizing lo with
  | nil =>
    simp only [Memory.write]
    split <;> rename_i hu
    · split <;> simp_all [Memory.read]
    · rfl
  | cons c rest ih =>
    obtain ⟨d, w⟩ := c
    have h' := h
    simp only [Memory.wfFrom, Bool.and_eq_true, decide_eq_true_eq] at h'
    simp only [Memory.write]
    by_cases had : a < d
    · simp only [had, if_true]
      split <;> rename_i hu
      · split <;> rename_i hb
        · have hnd : b ≠ d := by omega
          simp only [Memory.read, hnd, if_false]
          rw [Memory.read_below h'.2 (by omega), hu, hb]
        · rfl
      · rfl
    · simp only [had, if_false]
      by_cases he : a = d
      · simp only [he, if_true]
        split <;> rename_i hu
        · split <;> rename_i hb
          · rw [Memory.read_below h'.2 (by omega), hu, hb]
          · simp [Memory.read, hb]
        · by_cases hb : b = d <;> simp [Memory.read, hb]
      · simp only [he, if_false, Memory.read]
        by_cases hb : b = d
        · have : b ≠ a := by omega
          simp only [hb, if_true]; split
          · omega
          · rfl
        · simp only [hb, if_false]; exact ih h'.2

theorem Memory.read_write (m : Memory) (h : m.wf = true) (a : Nat) (u : Byte) (b : Nat) :
    (m.write a u).read b = if b = a then u else m.read b := Memory.read_write_from h a u b

/-- Writing a byte keeps the canonical form. -/
theorem Memory.write_wfFrom {lo : Nat} {m : Memory} (h : Memory.wfFrom lo m = true) {a : Nat} (hlo : lo ≤ a)
    (ha : a < Config.memSize) (u : Byte) : Memory.wfFrom lo (m.write a u) = true := by
  induction m generalizing lo with
  | nil =>
    simp only [Memory.write]
    split <;> rename_i hu
    · rfl
    · simp only [Memory.wfFrom, Bool.and_eq_true, decide_eq_true_eq]
      exact ⟨⟨⟨hlo, ha⟩, hu⟩, trivial⟩
  | cons c rest ih =>
    obtain ⟨d, w⟩ := c
    have h' := h
    simp only [Memory.wfFrom, Bool.and_eq_true, decide_eq_true_eq] at h'
    simp only [Memory.write]
    by_cases had : a < d
    · simp only [had, if_true]
      split <;> rename_i hu
      · exact h
      · simp only [Memory.wfFrom, Bool.and_eq_true, decide_eq_true_eq]
        exact ⟨⟨⟨hlo, ha⟩, hu⟩, ⟨⟨by omega, h'.1.1.2⟩, h'.1.2⟩, h'.2⟩
    · simp only [had, if_false]
      by_cases he : a = d
      · simp only [he, if_true]
        split <;> rename_i hu
        · exact Memory.wfFrom_mono h'.2 (by omega)
        · simp only [Memory.wfFrom, Bool.and_eq_true, decide_eq_true_eq]
          exact ⟨⟨⟨h'.1.1.1, h'.1.1.2⟩, hu⟩, h'.2⟩
      · simp only [he, if_false, Memory.wfFrom, Bool.and_eq_true, decide_eq_true_eq]
        exact ⟨h'.1, ih h'.2 (by omega)⟩

theorem Memory.write_wf {m : Memory} (h : m.wf = true) {a : Nat} (ha : a < Config.memSize) (u : Byte) :
    (m.write a u).wf = true := Memory.write_wfFrom h (Nat.zero_le a) ha u

/-- Storing a block inside memory keeps the canonical form. -/
theorem Memory.writeBytes_wf {m : Memory} (h : m.wf = true) {a : Nat} {us : List Byte}
    (ha : a + us.length ≤ Config.memSize) : (m.writeBytes a us).wf = true := by
  induction us generalizing m a with
  | nil => exact h
  | cons u us ih =>
    simp only [List.length_cons] at ha
    exact ih (Memory.write_wf h (by omega) u) (by omega)

/-- A block store read back: the stored byte inside the block, the old byte outside. -/
theorem Memory.read_writeBytes {m : Memory} (h : m.wf = true) {a : Nat} {us : List Byte}
    (ha : a + us.length ≤ Config.memSize) (b : Nat) :
    (m.writeBytes a us).read b = if a ≤ b then us.getD (b - a) (m.read b) else m.read b := by
  induction us generalizing m a with
  | nil => simp [Memory.writeBytes]
  | cons u us ih =>
    simp only [List.length_cons] at ha
    rw [Memory.writeBytes, ih (Memory.write_wf h (by omega) u) (by omega), Memory.read_write m h]
    by_cases hb : b = a
    · subst hb; simp
    · by_cases hab : a ≤ b
      · have h1 : a + 1 ≤ b := by omega
        have h2 : b - a = (b - (a + 1)) + 1 := by omega
        simp [hb, hab, h1, h2]
      · have h1 : ¬ a + 1 ≤ b := by omega
        simp [hb, hab, h1]

/-- The bytes read at rising addresses. -/
theorem Memory.readBytes_length (m : Memory) (a n : Nat) : (m.readBytes a n).length = n := by
  induction n generalizing a with
  | zero => rfl
  | succ n ih => simp [Memory.readBytes, ih]

theorem Memory.readBytes_getElem? (m : Memory) (a n k : Nat) :
    (m.readBytes a n)[k]? = if k < n then some (m.read (a + k)) else none := by
  induction n generalizing a k with
  | zero => simp [Memory.readBytes]
  | succ n ih =>
    cases k with
    | zero => simp [Memory.readBytes]
    | succ k =>
      simp only [Memory.readBytes, List.getElem?_cons_succ, ih]
      have : a + 1 + k = a + (k + 1) := by omega
      simp [this]

/-- The memory of the reset state is canonical. -/
theorem State.reset_mem_wf : State.reset.mem.wf = true := rfl

end Sys2Proof.Machine
end

