-- ==== Sys2Proof/Laws/Ops.lean ====
section
/-!
SUPPORT. One lemma per shared operation that says everything it can do.
-/

namespace Sys2Proof.Machine

/-! ### Flags and arithmetic -/

theorem flagByte_toNat (b : Bool) : (flagByte b).toNat = if b then 1 else 0 := by cases b <;> rfl

theorem carryFlag_eq (a b : Byte) : carryFlag a b = if a.toNat + b.toNat > 255 then 1 else 0 := by
  simp [carryFlag, flagByte]

theorem greaterFlag_eq (a b : Byte) : greaterFlag a b = if a.toNat > b.toNat then 1 else 0 := by
  simp [greaterFlag, flagByte]

theorem addBytes_toNat (a b : Byte) : (addBytes a b).toNat = (a.toNat + b.toNat) % 256 := by
  simp [addBytes, BitVec.toNat_ofNat]

theorem subBytes_toNat (a b : Byte) : (subBytes a b).toNat = (a.toNat + 256 - b.toNat) % 256 := by
  simp [subBytes, BitVec.toNat_ofNat]

theorem lowBitFlag_toNat (a : Byte) : (lowBitFlag a).toNat = a.toNat % 2 := by
  simp [lowBitFlag, BitVec.toNat_and, Nat.and_one_is_mod]

theorem highBitFlag_eq (a : Byte) : highBitFlag a = if a.toNat ≥ 128 then 1 else 0 := by
  revert a; decide

/-! ### Skips -/

@[simp] theorem State.skipIf_true (s : State) : State.skipIf true s = s.setPc (s.pc + 2) := rfl

@[simp] theorem State.skipIf_false (s : State) : State.skipIf false s = s := rfl

/-- A skip changes `PC` or nothing. -/
theorem State.skipIf_eq (c : Bool) (s : State) : State.skipIf c s = s.setPc (if c then s.pc + 2 else s.pc) := by
  cases c <;> rfl

/-! ### Blocks at `I` -/

/-- A block fits when it is empty or its last byte is inside memory. -/
theorem State.blockFits_iff (s : State) (len : Nat) :
    s.blockFits len = true ↔ len = 0 ∨ s.i.toNat + (len - 1) ≤ 4095 := by
  rw [State.blockFits, Bool.or_eq_true, decide_eq_true_iff, decide_eq_true_iff]
  rfl

/-- A block that fits lies inside the 4096 bytes. -/
theorem State.blockFits_le {s : State} {len : Nat} (h : s.blockFits len = true) (hl : 0 < len) :
    s.indexAddr 0 + len ≤ Config.memSize := by
  rw [State.blockFits_iff] at h
  simp only [State.indexAddr, Config.memSize]
  omega

theorem State.regsUpTo_length (s : State) (x : Reg) : (s.regsUpTo x).length = x.val + 1 := by
  simp only [State.regsUpTo, List.length_take, Vector.length_toList]
  omega

/-- Byte `k` of the stored block is `V[k]`. -/
theorem State.regsUpTo_getElem? (s : State) (x : Reg) (k : Reg) (hk : k ≤ x) :
    (s.regsUpTo x)[k.val]? = some (s.reg k) := by
  have hk' : k.val ≤ x.val := hk
  have : k.val < x.val + 1 := by omega
  simp [State.regsUpTo, this, State.reg]

/-- After the block load: the registers below `n` hold the bytes, the others are as before. -/
theorem loadAscending_getElem (m : Memory) (a n : Nat) (v : Vector Byte 16) (r : Reg) :
    (loadAscending m a n v)[r] = if r.val < n then m.read (a + r.val) else v[r] := by
  induction n with
  | zero => simp [loadAscending]
  | succ n ih =>
    simp only [loadAscending, Fin.getElem_fin, Vector.getElem_setIfInBounds] at ih ⊢
    by_cases h : n = r.val
    · subst h; simp
    · have h' : (r.val < n + 1) = (r.val < n) := by
        apply propext; omega
      simp [h, h', ih]

theorem decimalDigits_length (b : Byte) : (decimalDigits b).length = 3 := rfl

/-! ### Keys -/

/-- No key is found exactly when none is pressed. -/
theorem State.lowestKey_none (s : State) : s.lowestKey = none ↔ ∀ k : Fin 16, s.key[k] = false := by
  simp [State.lowestKey]

/-- The key found is pressed, and no lower key is. -/
theorem State.lowestKey_some (s : State) (k : Fin 16) :
    s.lowestKey = some k ↔ s.key[k] = true ∧ ∀ j : Fin 16, j < k → s.key[j] = false := by
  constructor
  · intro h
    have hk := List.find?_some h
    refine ⟨hk, fun j hj => ?_⟩
    obtain ⟨_, as, bs, hl, hall⟩ := List.find?_eq_some_iff_append.mp h
    have hsorted : (List.finRange 16).Pairwise (· < ·) := by decide
    rw [hl, List.pairwise_append] at hsorted
    have hj' : j ∈ as ++ k :: bs := by rw [← hl]; exact List.mem_finRange j
    rcases List.mem_append.mp hj' with hja | hjb
    · simpa using hall j hja
    · rcases List.mem_cons.mp hjb with rfl | hjb
      · exact absurd hj (lt_irrefl _)
      · have := (List.pairwise_cons.mp hsorted.2.1).1 j hjb
        exact absurd hj (not_lt.mpr this.le)
  · rintro ⟨hk, hlow⟩
    cases h : s.lowestKey with
    | none => rw [State.lowestKey_none] at h; simp [h k] at hk
    | some k' =>
      have hk' := List.find?_some h
      obtain ⟨_, as, bs, hl, hall⟩ := List.find?_eq_some_iff_append.mp h
      have hsorted : (List.finRange 16).Pairwise (· < ·) := by decide
      rw [hl, List.pairwise_append] at hsorted
      congr 1
      have hmem : k ∈ as ++ k' :: bs := by rw [← hl]; exact List.mem_finRange k
      rcases List.mem_append.mp hmem with ha | hb
      · have := hall k ha; simp only [Bool.not_eq_true'] at this
        exact absurd hk (by rw [this]; decide)
      · rcases List.mem_cons.mp hb with rfl | hb
        · rfl
        · have hlt := (List.pairwise_cons.mp hsorted.2.1).1 k hb
          have := hlow k' hlt
          exact absurd hk' (by rw [this]; decide)

/-! ### Faults and the end of a step -/

theorem raiseHere_eq (c : Fault) (n : Nat) (s : State) : raiseHere c n s =
    { s with pc := s.pc - 2, flt := true, fcause := c.code, fval := BitVec.ofNat 16 (n % 65536), fpc := s.pc - 2 } := rfl

theorem tickTimer_toNat (b : Byte) : (tickTimer b).toNat = b.toNat - 1 := by
  revert b; decide

/-- A step whose instruction did not fault ends with the tick. -/
theorem State.commit_running (s t : State) (h : t.flt = false) : s.commit t = t.tick := by simp [State.commit, h]

/-- A step whose instruction faulted keeps nothing but the latch. -/
theorem State.commit_faulted (s t : State) (h : t.flt = true) : s.commit t = s.withLatchOf t := by simp [State.commit, h]

/-! ### The step -/

/-- When the fetch faults: a byte of the word lies above address 4095 (`40_step_driver.md` R121). -/
theorem State.fetchOutOfRange_iff (s : State) : s.fetchOutOfRange = true ↔ 0x0FFE < s.pc.toNat := by
  rw [State.fetchOutOfRange, decide_eq_true_iff]

theorem State.fetchInRange_iff (s : State) : s.fetchOutOfRange = false ↔ s.pc.toNat ≤ 0x0FFE := by
  rw [← Bool.not_eq_true, State.fetchOutOfRange_iff, Nat.not_lt]

/-- A halted core answers itself (`40_step_driver.md` R126). -/
theorem step_halted (s : State) (h : s.flt = true) : step s = .next s := by simp [step, h]

/-- A fetch above 4095 faults (`40_step_driver.md` R121). -/
theorem step_fetchOob (s : State) (h : s.flt = false) (hp : s.fetchOutOfRange = true) :
    step s = .next (raiseFault .fetchOob s.pc.toNat s.pc s) := by simp [step, h, hp]

/-- Otherwise the step is the instruction's effect, committed. -/
theorem step_exec (s : State) (h : s.flt = false) (hp : s.fetchOutOfRange = false) {t : State}
    (ht : exec (decodeWord s.fetchWord) s.fetched = .next t) : step s = .next (s.commit t) := by simp [step, h, hp, ht]

/-- Everything a step can do. -/
theorem step_cases {s t : State} (h : step s = .next t) :
    (s.flt = true ∧ t = s) ∨
    (s.flt = false ∧ s.fetchOutOfRange = true ∧ t = raiseFault .fetchOob s.pc.toNat s.pc s) ∨
    (s.flt = false ∧ s.fetchOutOfRange = false ∧
      ∃ u, exec (decodeWord s.fetchWord) s.fetched = .next u ∧ t = s.commit u) := by
  unfold step at h
  split at h
  · exact .inl ⟨‹_›, by simpa using h.symm⟩
  · split at h
    · exact .inr (.inl ⟨by simp_all, ‹_›, by simpa using h.symm⟩)
    · split at h
      · exact .inr (.inr ⟨by simp_all, by simp_all, _, ‹_›, by simpa using h.symm⟩)
      · cases h
      · cases h

end Sys2Proof.Machine
end

