-- ==== Sys2Proof/Laws/PerInstr.lean ====
section
/-!
SUPPORT. Statements about every instruction as syntax, one lemma per constructor. EncodeMatchesTable: the encoder's word of
an instruction falls on that instruction's own line of the opcode map (`30_encoding.md` R105).
-/

namespace Sys2Proof

/-- What a mask of the opcode map keeps of a word: the primary nibble alone. -/
theorem mask_primary (w : Word) : w &&& (0xF000 : Word) = fieldP w ++ 0#12 := by
  apply BitVec.eq_of_getLsbD_eq
  intro k hk
  simp only [fieldP, BitVec.getLsbD_append, BitVec.getLsbD_and, BitVec.getLsbD_extractLsb']
  interval_cases k <;> simp

/-- The primary nibble and the low nibble. -/
theorem mask_primary_low (w : Word) : w &&& (0xF00F : Word) = fieldP w ++ 0#8 ++ fieldN w := by
  apply BitVec.eq_of_getLsbD_eq
  intro k hk
  simp only [fieldP, fieldN, BitVec.getLsbD_append, BitVec.getLsbD_and, BitVec.getLsbD_extractLsb']
  interval_cases k <;> simp

/-- The primary nibble and the low byte. -/
theorem mask_primary_byte (w : Word) : w &&& (0xF0FF : Word) = fieldP w ++ 0#4 ++ fieldKk w := by
  apply BitVec.eq_of_getLsbD_eq
  intro k hk
  simp only [fieldP, fieldKk, BitVec.getLsbD_append, BitVec.getLsbD_and, BitVec.getLsbD_extractLsb']
  interval_cases k <;> simp

/-- The line of a word from its primary nibble, low nibble and low byte: the rows of the opcode map in turn. -/
theorem tableLine_fields (w : Word) : tableLine w =
    ((opcodeTable.find? (fun r =>
      (if r.mask = 0xF000 then fieldP w ++ 0#12
        else if r.mask = 0xF00F then fieldP w ++ 0#8 ++ fieldN w
        else fieldP w ++ 0#4 ++ fieldKk w : Word) == r.pattern)).map OpcodeRow.line).getD 35 := by
  have h : ∀ r ∈ opcodeTable, (w &&& r.mask == r.pattern) =
      ((if r.mask = 0xF000 then fieldP w ++ 0#12
        else if r.mask = 0xF00F then fieldP w ++ 0#8 ++ fieldN w
        else fieldP w ++ 0#4 ++ fieldKk w : Word) == r.pattern) := by
    have hm : ∀ r ∈ opcodeTable, r.mask = 0xF000 ∨ r.mask = 0xF00F ∨ r.mask = 0xF0FF := by decide
    intro r hr
    rcases hm r hr with e | e | e <;> rw [e]
    · rw [mask_primary, if_pos rfl]
    · rw [mask_primary_low, if_neg (by decide), if_pos rfl]
    · rw [mask_primary_byte, if_neg (by decide), if_neg (by decide)]
  rw [tableLine, List.find?_congr h]

/-- The sixteen values of a nibble. -/
theorem nibble_cases (n : BitVec 4) : n = 0x0 ∨ n = 0x1 ∨ n = 0x2 ∨ n = 0x3 ∨ n = 0x4 ∨ n = 0x5 ∨ n = 0x6 ∨ n = 0x7 ∨
    n = 0x8 ∨ n = 0x9 ∨ n = 0xA ∨ n = 0xB ∨ n = 0xC ∨ n = 0xD ∨ n = 0xE ∨ n = 0xF := by
  revert n
  decide

namespace Laws.EncodeMatchesTable

/-- The encoder's word of a well-formed instruction falls on the instruction's line of the opcode map. -/
def Statement (i : Instr) : Prop := i.wellFormed = true → tableLine (encode i) = i.line

theorem cls : Statement (.cls) := by
  intro _
  rfl

theorem ret : Statement (.ret) := by
  intro _
  rfl

theorem jp (nnn : BitVec 12) : Statement (.jp nnn) := by
  intro _
  rw [tableLine_fields]
  simp only [encode, fieldP_formatNnn]
  generalize fieldN _ = n
  rcases nibble_cases n with h | h | h | h | h | h | h | h | h | h | h | h | h | h | h | h <;> subst h <;> rfl

theorem call (nnn : BitVec 12) : Statement (.call nnn) := by
  intro _
  rw [tableLine_fields]
  simp only [encode, fieldP_formatNnn]
  generalize fieldN _ = n
  rcases nibble_cases n with h | h | h | h | h | h | h | h | h | h | h | h | h | h | h | h <;> subst h <;> rfl

theorem seImm (x : Reg) (kk : BitVec 8) : Statement (.seImm x kk) := by
  intro _
  rw [tableLine_fields]
  simp only [encode, fieldP_formatXkk]
  generalize fieldN _ = n
  rcases nibble_cases n with h | h | h | h | h | h | h | h | h | h | h | h | h | h | h | h <;> subst h <;> rfl

theorem sneImm (x : Reg) (kk : BitVec 8) : Statement (.sneImm x kk) := by
  intro _
  rw [tableLine_fields]
  simp only [encode, fieldP_formatXkk]
  generalize fieldN _ = n
  rcases nibble_cases n with h | h | h | h | h | h | h | h | h | h | h | h | h | h | h | h <;> subst h <;> rfl

theorem seReg (x y : Reg) : Statement (.seReg x y) := by
  intro _
  rw [tableLine_fields]
  simp only [encode, fieldP_formatXyn, fieldN_formatXyn]
  rfl

theorem ldImm (x : Reg) (kk : BitVec 8) : Statement (.ldImm x kk) := by
  intro _
  rw [tableLine_fields]
  simp only [encode, fieldP_formatXkk]
  generalize fieldN _ = n
  rcases nibble_cases n with h | h | h | h | h | h | h | h | h | h | h | h | h | h | h | h <;> subst h <;> rfl

theorem addImm (x : Reg) (kk : BitVec 8) : Statement (.addImm x kk) := by
  intro _
  rw [tableLine_fields]
  simp only [encode, fieldP_formatXkk]
  generalize fieldN _ = n
  rcases nibble_cases n with h | h | h | h | h | h | h | h | h | h | h | h | h | h | h | h <;> subst h <;> rfl

theorem ldReg (x y : Reg) : Statement (.ldReg x y) := by
  intro _
  rw [tableLine_fields]
  simp only [encode, fieldP_formatXyn, fieldN_formatXyn]
  rfl

theorem orReg (x y : Reg) : Statement (.orReg x y) := by
  intro _
  rw [tableLine_fields]
  simp only [encode, fieldP_formatXyn, fieldN_formatXyn]
  rfl

theorem andReg (x y : Reg) : Statement (.andReg x y) := by
  intro _
  rw [tableLine_fields]
  simp only [encode, fieldP_formatXyn, fieldN_formatXyn]
  rfl

theorem xorReg (x y : Reg) : Statement (.xorReg x y) := by
  intro _
  rw [tableLine_fields]
  simp only [encode, fieldP_formatXyn, fieldN_formatXyn]
  rfl

theorem addReg (x y : Reg) : Statement (.addReg x y) := by
  intro _
  rw [tableLine_fields]
  simp only [encode, fieldP_formatXyn, fieldN_formatXyn]
  rfl

theorem subReg (x y : Reg) : Statement (.subReg x y) := by
  intro _
  rw [tableLine_fields]
  simp only [encode, fieldP_formatXyn, fieldN_formatXyn]
  rfl

theorem shr (x y : Reg) : Statement (.shr x y) := by
  intro _
  rw [tableLine_fields]
  simp only [encode, fieldP_formatXyn, fieldN_formatXyn]
  rfl

theorem subn (x y : Reg) : Statement (.subn x y) := by
  intro _
  rw [tableLine_fields]
  simp only [encode, fieldP_formatXyn, fieldN_formatXyn]
  rfl

theorem shl (x y : Reg) : Statement (.shl x y) := by
  intro _
  rw [tableLine_fields]
  simp only [encode, fieldP_formatXyn, fieldN_formatXyn]
  rfl

theorem sneReg (x y : Reg) : Statement (.sneReg x y) := by
  intro _
  rw [tableLine_fields]
  simp only [encode, fieldP_formatXyn, fieldN_formatXyn]
  rfl

theorem ldI (nnn : BitVec 12) : Statement (.ldI nnn) := by
  intro _
  rw [tableLine_fields]
  simp only [encode, fieldP_formatNnn]
  generalize fieldN _ = n
  rcases nibble_cases n with h | h | h | h | h | h | h | h | h | h | h | h | h | h | h | h <;> subst h <;> rfl

theorem jpV0 (nnn : BitVec 12) : Statement (.jpV0 nnn) := by
  intro _
  rw [tableLine_fields]
  simp only [encode, fieldP_formatNnn]
  generalize fieldN _ = n
  rcases nibble_cases n with h | h | h | h | h | h | h | h | h | h | h | h | h | h | h | h <;> subst h <;> rfl

theorem rnd (x : Reg) (kk : BitVec 8) : Statement (.rnd x kk) := by
  intro _
  rw [tableLine_fields]
  simp only [encode, fieldP_formatXkk]
  generalize fieldN _ = n
  rcases nibble_cases n with h | h | h | h | h | h | h | h | h | h | h | h | h | h | h | h <;> subst h <;> rfl

theorem drw (x y : Reg) (n : BitVec 4) : Statement (.drw x y n) := by
  intro _
  rw [tableLine_fields]
  simp only [encode, fieldP_formatXyn, fieldN_formatXyn]
  rcases nibble_cases n with h | h | h | h | h | h | h | h | h | h | h | h | h | h | h | h <;> subst h <;> rfl

theorem skp (x : Reg) : Statement (.skp x) := by
  intro _
  rw [tableLine_fields]
  simp only [encode, fieldP_formatXkk, fieldN_formatXkk, fieldKk_formatXkk]
  rfl

theorem sknp (x : Reg) : Statement (.sknp x) := by
  intro _
  rw [tableLine_fields]
  simp only [encode, fieldP_formatXkk, fieldN_formatXkk, fieldKk_formatXkk]
  rfl

theorem ldVxDt (x : Reg) : Statement (.ldVxDt x) := by
  intro _
  rw [tableLine_fields]
  simp only [encode, fieldP_formatXkk, fieldN_formatXkk, fieldKk_formatXkk]
  rfl

theorem ldVxK (x : Reg) : Statement (.ldVxK x) := by
  intro _
  rw [tableLine_fields]
  simp only [encode, fieldP_formatXkk, fieldN_formatXkk, fieldKk_formatXkk]
  rfl

theorem ldDtVx (x : Reg) : Statement (.ldDtVx x) := by
  intro _
  rw [tableLine_fields]
  simp only [encode, fieldP_formatXkk, fieldN_formatXkk, fieldKk_formatXkk]
  rfl

theorem ldStVx (x : Reg) : Statement (.ldStVx x) := by
  intro _
  rw [tableLine_fields]
  simp only [encode, fieldP_formatXkk, fieldN_formatXkk, fieldKk_formatXkk]
  rfl

theorem addI (x : Reg) : Statement (.addI x) := by
  intro _
  rw [tableLine_fields]
  simp only [encode, fieldP_formatXkk, fieldN_formatXkk, fieldKk_formatXkk]
  rfl

theorem ldF (x : Reg) : Statement (.ldF x) := by
  intro _
  rw [tableLine_fields]
  simp only [encode, fieldP_formatXkk, fieldN_formatXkk, fieldKk_formatXkk]
  rfl

theorem ldB (x : Reg) : Statement (.ldB x) := by
  intro _
  rw [tableLine_fields]
  simp only [encode, fieldP_formatXkk, fieldN_formatXkk, fieldKk_formatXkk]
  rfl

theorem storeRegs (x : Reg) : Statement (.storeRegs x) := by
  intro _
  rw [tableLine_fields]
  simp only [encode, fieldP_formatXkk, fieldN_formatXkk, fieldKk_formatXkk]
  rfl

theorem loadRegs (x : Reg) : Statement (.loadRegs x) := by
  intro _
  rw [tableLine_fields]
  simp only [encode, fieldP_formatXkk, fieldN_formatXkk, fieldKk_formatXkk]
  rfl

theorem nop (sel : NopSelector) : Statement (.nop sel) := by
  cases sel with
  | low0 n =>
    simp only [Statement, Instr.wellFormed, Instr.line, encode]
    revert n
    decide +kernel
  | low8 n =>
    simp only [Statement, Instr.wellFormed, Instr.line, encode]
    revert n
    decide +kernel
  | lowE n =>
    simp only [Statement, Instr.wellFormed, Instr.line, encode]
    revert n
    decide +kernel
  | lowF kk =>
    simp only [Statement, Instr.wellFormed, Instr.line, encode]
    revert kk
    decide +kernel

end Laws.EncodeMatchesTable
end Sys2Proof
end

