-- ==== Sys2Proof/Listing.lean ====
section
/-!
DEFINITION. The text of an instruction in a program listing (`30_encoding.md` R104, mnemonics of R105). The mnemonics are
labels only (the spec's decision D14; assumption 25): nothing of the machine depends on this file.
-/

namespace Sys2Proof

/-- A hexadecimal digit. -/
def hexDigit (n : Nat) : Char := if n < 10 then Char.ofNat (48 + n) else Char.ofNat (55 + n)

/-- The low `digits` hexadecimal digits of a number, most significant first. -/
def hexDigits : Nat → Nat → List Char
  | 0, _ => []
  | digits + 1, n => hexDigits digits (n / 16) ++ [hexDigit (n % 16)]

/-- `V0`..`VF`. -/
def regText (r : Reg) : List Char := ['V', hexDigit r.val]

/-- `kk` as `0x..`. -/
def byteText (kk : BitVec 8) : List Char := ['0', 'x'] ++ hexDigits 2 kk.toNat

/-- `nnn` as `0x...`. -/
def addrText (nnn : BitVec 12) : List Char := ['0', 'x'] ++ hexDigits 3 nnn.toNat

/-- `n` as a decimal number. -/
def rowsText (n : BitVec 4) : List Char := (Nat.repr n.toNat).toList

/-- A mnemonic with one operand. -/
def oneOperand (m : List Char) (a : List Char) : List Char := m ++ [' '] ++ a

/-- A mnemonic with two operands. -/
def twoOperands (m : List Char) (a b : List Char) : List Char := m ++ [' '] ++ a ++ [',', ' '] ++ b

/-- The mnemonic and operands of an instruction (`30_encoding.md` R105). -/
def Instr.text : Instr → List Char
  | .cls => ['C', 'L', 'S']
  | .ret => ['R', 'E', 'T']
  | .jp nnn => oneOperand ['J', 'P'] (addrText nnn)
  | .call nnn => oneOperand ['C', 'A', 'L', 'L'] (addrText nnn)
  | .seImm x kk => twoOperands ['S', 'E'] (regText x) (byteText kk)
  | .sneImm x kk => twoOperands ['S', 'N', 'E'] (regText x) (byteText kk)
  | .seReg x y => twoOperands ['S', 'E'] (regText x) (regText y)
  | .ldImm x kk => twoOperands ['L', 'D'] (regText x) (byteText kk)
  | .addImm x kk => twoOperands ['A', 'D', 'D'] (regText x) (byteText kk)
  | .ldReg x y => twoOperands ['L', 'D'] (regText x) (regText y)
  | .orReg x y => twoOperands ['O', 'R'] (regText x) (regText y)
  | .andReg x y => twoOperands ['A', 'N', 'D'] (regText x) (regText y)
  | .xorReg x y => twoOperands ['X', 'O', 'R'] (regText x) (regText y)
  | .addReg x y => twoOperands ['A', 'D', 'D'] (regText x) (regText y)
  | .subReg x y => twoOperands ['S', 'U', 'B'] (regText x) (regText y)
  | .shr x _ => oneOperand ['S', 'H', 'R'] (regText x)
  | .subn x y => twoOperands ['S', 'U', 'B', 'N'] (regText x) (regText y)
  | .shl x _ => oneOperand ['S', 'H', 'L'] (regText x)
  | .sneReg x y => twoOperands ['S', 'N', 'E'] (regText x) (regText y)
  | .ldI nnn => twoOperands ['L', 'D'] ['I'] (addrText nnn)
  | .jpV0 nnn => twoOperands ['J', 'P'] ['V', '0'] (addrText nnn)
  | .rnd x kk => twoOperands ['R', 'N', 'D'] (regText x) (byteText kk)
  | .drw x y n => twoOperands ['D', 'R', 'W'] (regText x) (regText y) ++ [',', ' '] ++ rowsText n
  | .skp x => oneOperand ['S', 'K', 'P'] (regText x)
  | .sknp x => oneOperand ['S', 'K', 'N', 'P'] (regText x)
  | .ldVxDt x => twoOperands ['L', 'D'] (regText x) ['D', 'T']
  | .ldVxK x => twoOperands ['L', 'D'] (regText x) ['K']
  | .ldDtVx x => twoOperands ['L', 'D'] ['D', 'T'] (regText x)
  | .ldStVx x => twoOperands ['L', 'D'] ['S', 'T'] (regText x)
  | .addI x => twoOperands ['A', 'D', 'D'] ['I'] (regText x)
  | .ldF x => twoOperands ['L', 'D'] ['F'] (regText x)
  | .ldB x => twoOperands ['L', 'D'] ['B'] (regText x)
  | .storeRegs x => twoOperands ['L', 'D'] ['[', 'I', ']'] (regText x)
  | .loadRegs x => twoOperands ['L', 'D'] (regText x) ['[', 'I', ']']
  | .nop _ => ['N', 'O', 'P']

/-- A line of a listing: the address, the four digits of the word, the instruction (`30_encoding.md` R104). -/
def listingLine (address : Nat) (w : Word) : List Char :=
  hexDigits 4 address ++ [':', ' '] ++ hexDigits 4 w.toNat ++ [' ', ' ', ' '] ++ (decodeWord w).text

end Sys2Proof
end

