-- ==== Sys2Proof/Tests/Slice0.lean ====
section
/-!
SUPPORT. The tests. Expected results are the vectors of `95_test_vectors.md` (the id of each stands beside it) and words
written out from `30_encoding.md` R92, R105. The last part shows, for every statement with hypotheses, a state and
operands that meet them, at the ends of their ranges.
-/

namespace Sys2Proof.Tests
open Sys2Proof Sys2Proof.Machine

set_option Elab.async false

/-! ### Helpers -/

/-- The state after one step. -/
def after (s : State) : State :=
  match step s with
  | .next t => t
  | .fault _ => s
  | .refused _ => s

/-- Reset, with some registers set. -/
def start (rs : List (Reg × Byte)) : State := rs.foldl (fun s p => s.setReg p.1 p.2) State.reset

/-- The word `w` placed at `PC` and one step run. -/
def run (s : State) (w : Nat) : State := after (s.withFetchWord 16 w)

/-- Some bytes placed at `a`. -/
def poke (s : State) (a : Nat) (bs : List Byte) : State := s.setMem (s.mem.writeBytes a bs)

/-- Some cells toggled. -/
def dots (s : State) (cs : List (Fin 32 × Fin 64)) : State := s.setFb (cs.foldl (fun f p => toggleCell f p.1 p.2) s.fb)

/-- `n` bytes of memory at `a`. -/
def peek (s : State) (a n : Nat) : List Byte := s.mem.readBytes a n

/-- The cells that are on. -/
def lit (s : State) : List (Nat × Nat) :=
  (List.finRange 32).flatMap fun r => (List.finRange 64).filterMap fun c => if s.cell r c then some (r.val, c.val) else none

/-- The latch. -/
def latch (s : State) : Bool × Nat × Nat × Nat := (s.flt, s.fcause.toNat, s.fval.toNat, s.fpc.toNat)

/-! ### Well-formedness: an ill-formed term for each check -/

theorem test_wellFormed_refuses_family0 :
    ([0x0, 0xE].all fun n => !(Instr.nop (.low0 n)).wellFormed) = true := by decide

theorem test_wellFormed_refuses_family8 :
    ([0x0, 0x1, 0x2, 0x3, 0x4, 0x5, 0x6, 0x7, 0xE].all fun n => !(Instr.nop (.low8 n)).wellFormed) = true := by decide

theorem test_wellFormed_refuses_familyE :
    ([0x1, 0xE].all fun n => !(Instr.nop (.lowE n)).wellFormed) = true := by decide

theorem test_wellFormed_refuses_familyF :
    ([0x07, 0x0A, 0x15, 0x18, 0x1E, 0x29, 0x33, 0x55, 0x65].all fun kk => !(Instr.nop (.lowF kk)).wellFormed) = true := by
  decide

theorem test_wellFormed_accepts_unassigned :
    (Instr.nop (.low0 0x5)).wellFormed = true ∧ (Instr.nop (.low8 0x8)).wellFormed = true ∧
    (Instr.nop (.lowE 0x2)).wellFormed = true ∧ (Instr.nop (.lowF 0x00)).wellFormed = true := by decide

/-! ### Decoding: every constructor, from a word written bit by bit from `30_encoding.md` R92 and R105 -/

theorem test_decode_family0 :
    decodeWord 0b0000000011100000#16 = .cls ∧ decodeWord 0b0000101010110000#16 = .cls ∧
    decodeWord 0b0000000011101110#16 = .ret ∧ decodeWord 0b0000000100101110#16 = .ret ∧
    decodeWord 0b0000000000000001#16 = .nop (.low0 0x1) := by decide

theorem test_decode_families1to7 :
    decodeWord 0b0001001000110100#16 = .jp 0x234 ∧ decodeWord 0b0010101010111100#16 = .call 0xABC ∧
    decodeWord 0b0011001100101010#16 = .seImm 3 0x2A ∧ decodeWord 0b0100010100101010#16 = .sneImm 5 0x2A ∧
    decodeWord 0b0101000100100000#16 = .seReg 1 2 ∧ decodeWord 0b0101000100101111#16 = .seReg 1 2 ∧
    decodeWord 0b0110101000001111#16 = .ldImm 10 0x0F ∧ decodeWord 0b0111000110000000#16 = .addImm 1 0x80 := by decide

theorem test_decode_family8 :
    decodeWord 0b1000000100100000#16 = .ldReg 1 2 ∧ decodeWord 0b1000001101000001#16 = .orReg 3 4 ∧
    decodeWord 0b1000010101100010#16 = .andReg 5 6 ∧ decodeWord 0b1000011110000011#16 = .xorReg 7 8 ∧
    decodeWord 0b1000100110100100#16 = .addReg 9 10 ∧ decodeWord 0b1000101111000101#16 = .subReg 11 12 ∧
    decodeWord 0b1000110111100110#16 = .shr 13 14 ∧ decodeWord 0b1000000111110111#16 = .subn 1 15 ∧
    decodeWord 0b1000111100101110#16 = .shl 15 2 ∧ decodeWord 0b1000000100101000#16 = .nop (.low8 0x8) := by decide

theorem test_decode_families9toD :
    decodeWord 0b1001000100100000#16 = .sneReg 1 2 ∧ decodeWord 0b1001000100100111#16 = .sneReg 1 2 ∧
    decodeWord 0b1010001011110000#16 = .ldI 0x2F0 ∧ decodeWord 0b1011001100000000#16 = .jpV0 0x300 ∧
    decodeWord 0b1100001100001111#16 = .rnd 3 0x0F ∧ decodeWord 0b1101000000010010#16 = .drw 0 1 2 := by decide

theorem test_decode_familyE :
    decodeWord 0b1110001010011110#16 = .skp 2 ∧ decodeWord 0b1110001000001110#16 = .skp 2 ∧
    decodeWord 0b1110001110100001#16 = .sknp 3 ∧ decodeWord 0b1110001010100010#16 = .nop (.lowE 0x2) := by decide

theorem test_decode_familyF :
    decodeWord 0b1111001100000111#16 = .ldVxDt 3 ∧ decodeWord 0b1111001000001010#16 = .ldVxK 2 ∧
    decodeWord 0b1111000000010101#16 = .ldDtVx 0 ∧ decodeWord 0b1111000100011000#16 = .ldStVx 1 ∧
    decodeWord 0b1111010000011110#16 = .addI 4 ∧ decodeWord 0b1111101000101001#16 = .ldF 10 ∧
    decodeWord 0b1111010100110011#16 = .ldB 5 ∧ decodeWord 0b1111000101010101#16 = .storeRegs 1 ∧
    decodeWord 0b1111001001100101#16 = .loadRegs 2 ∧ decodeWord 0b1111000000000000#16 = .nop (.lowF 0x00) := by decide

/-- No two lines of the opcode map match one word. -/
theorem test_opcodeTable_disjoint :
    opcodeTable.Pairwise (fun a b => a.mask &&& b.mask &&& (a.pattern ^^^ b.pattern) ≠ 0) := by decide

theorem test_decodeBytes :
    decodeBytes [0x6A, 0x0F, 0x99] = .ok (.ldImm 10 0x0F, [0x99]) ∧
    decodeBytes [0x6A] = .error .halfWord ∧ decodeBytes [] = .error .noBytes := ⟨rfl, rfl, rfl⟩

/-- The host's numbering: bit 0 is the low byte's lowest bit; bits at and above `nbits` are 0. -/
theorem test_decodeTableWord :
    decodeTableWord 16 0x6A0F = some (.ldImm 10 0x0F) ∧ decodeTableWord 16 0x16A0F = some (.ldImm 10 0x0F) := by decide

/-- Lines of the listings of P2, P3 and P7, with one space after the mnemonic. -/
theorem test_listing :
    listingLine 0x202 0xA300 = "0202: A300   LD I, 0x300".toList ∧
    listingLine 0x206 0xF265 = "0206: F265   LD V2, [I]".toList ∧
    listingLine 0x206 0xD012 = "0206: D012   DRW V0, V1, 2".toList ∧
    listingLine 0x200 0x6A0A = "0200: 6A0A   LD VA, 0x0A".toList := by decide +kernel

/-- A program runs from reset once its word is placed. -/
theorem test_withFetchWord : (run State.reset 0x6A0F).reg 10 = 0x0F ∧ (run State.reset 0x6A0F).pc = 0x202 := by
  decide +kernel

/-! ### The step, fetch and the no-op -/

/-- N1 -/
theorem test_nop_advances_and_ticks :
    (fun t : State => (t.pc, t.dt, t.st)) (run { State.reset with dt := 2, st := 1 } 0x0001) = (0x202, 1, 0) := by
  decide +kernel

/-- N3 -/
theorem test_nop_familyE_no_fault : latch (run (start [(2, 0xFF)]) 0xE2A2) = (false, 0, 0, 0) := by decide +kernel

/-- N5 -/
theorem test_fetch_fault :
    (fun t : State => (t.pc, latch t)) (after { State.reset with pc := 0x0FFF }) = (0x0FFF, true, 1, 0x0FFF, 0x0FFF) := by
  decide +kernel

/-- N6 -/
theorem test_last_fetch :
    (fun t : State => (t.reg 10, t.pc, latch (after t))) (run { State.reset with pc := 0x0FFE } 0x6A0F) =
      (0x0F, 0x1000, true, 1, 0x1000, 0x1000) := by decide +kernel

/-- N7 -/
theorem test_odd_fetch :
    (fun t : State => (t.reg 10, t.pc)) (run { State.reset with pc := 0x0201 } 0x6A0F) = (0x0F, 0x203) := by
  decide +kernel

/-- N8 -/
theorem test_halted : after { State.reset with flt := true, dt := 5 } = { State.reset with flt := true, dt := 5 } := by
  decide +kernel

/-! ### Families 0 to 7 -/

/-- Z3 -/
theorem test_cls : lit (run (dots State.reset [(3, 5), (31, 63)]) 0x0AB0) = [] := by decide +kernel

/-- Z4 -/
theorem test_ret :
    (fun t : State => (t.pc, t.sp, t.stack[0]))
      (run { State.reset with pc := 0x212, sp := 1, stack := State.reset.stack.set 0 0x206 } 0x00EE) =
      (0x206, 0, 0x206) := by decide +kernel

/-- Z6 -/
theorem test_ret_underflow :
    (fun t : State => (t.pc, t.sp, latch t)) (run { State.reset with pc := 0x212 } 0x00EE) =
      (0x212, 0, true, 3, 0, 0x212) := by decide +kernel

/-- J1 -/
theorem test_jp : (run State.reset 0x1234).pc = 0x234 := by decide +kernel

/-- J5 -/
theorem test_call_last_entry :
    (fun t : State => (t.stack[15], t.sp, t.pc)) (run { State.reset with pc := 0xFFE, sp := 15 } 0x2210) =
      (0x1000, 16, 0x210) := by decide +kernel

/-- J6 -/
theorem test_call_overflow :
    (fun t : State => (t.pc, t.sp, latch t)) (run { State.reset with pc := 0x204, sp := 16 } 0x2210) =
      (0x204, 16, true, 2, 16, 0x204) := by decide +kernel

/-- J7, J8 -/
theorem test_seImm : (run (start [(3, 0x2A)]) 0x332A).pc = 0x204 ∧ (run (start [(3, 0x2B)]) 0x332A).pc = 0x202 := by
  decide +kernel

/-- J9, J10 -/
theorem test_sneImm : (run (start [(3, 0x2A)]) 0x432A).pc = 0x202 ∧ (run (start [(3, 0x2B)]) 0x432A).pc = 0x204 := by
  decide +kernel

/-- J12, J13 -/
theorem test_seReg :
    (run (start [(1, 7), (2, 8)]) 0x5120).pc = 0x202 ∧ (run (start [(1, 7), (2, 7)]) 0x512F).pc = 0x204 := by
  decide +kernel

/-- J16 -/
theorem test_ldImm : (run State.reset 0x6FFF).reg 15 = 0xFF := by decide +kernel

/-- J17 -/
theorem test_addImm :
    (fun t : State => (t.reg 0, t.reg 15)) (run (start [(0, 0xF0), (15, 7)]) 0x7020) = (0x10, 7) := by decide +kernel

/-! ### Family 8 -/

/-- A1 -/
theorem test_ldReg : (run (start [(1, 1), (2, 0x99)]) 0x8120).reg 1 = 0x99 := by decide +kernel

/-- A2 -/
theorem test_orReg :
    (fun t : State => (t.reg 1, t.reg 15)) (run (start [(1, 0xF0), (2, 0x0F), (15, 5)]) 0x8121) = (0xFF, 5) := by
  decide +kernel

/-- A3 -/
theorem test_andReg :
    (fun t : State => (t.reg 1, t.reg 15)) (run (start [(1, 0xF3), (2, 0x3F), (15, 5)]) 0x8122) = (0x33, 5) := by
  decide +kernel

/-- A4 -/
theorem test_xorReg :
    (fun t : State => (t.reg 1, t.reg 15)) (run (start [(1, 0xF3), (2, 0x3F), (15, 5)]) 0x8123) = (0xCC, 5) := by
  decide +kernel

/-- A8, A9 -/
theorem test_addReg_carry :
    (fun t : State => (t.reg 1, t.reg 15)) (run (start [(1, 0xFF), (2, 0), (15, 1)]) 0x8124) = (0xFF, 0) ∧
    (fun t : State => (t.reg 1, t.reg 15)) (run (start [(1, 0xFF), (2, 1)]) 0x8124) = (0x00, 1) := by decide +kernel

/-- A11, A12 -/
theorem test_addReg_flag_register :
    (run (start [(15, 200), (2, 100)]) 0x8F24).reg 15 = 0x2C ∧
    (fun t : State => (t.reg 1, t.reg 15)) (run (start [(1, 200), (15, 100)]) 0x81F4) = (0x2C, 1) := by decide +kernel

/-- A15, A16 -/
theorem test_subReg :
    (fun t : State => (t.reg 1, t.reg 15)) (run (start [(1, 0x10), (2, 0x20), (15, 1)]) 0x8125) = (0xF0, 0) ∧
    (fun t : State => (t.reg 1, t.reg 15)) (run (start [(1, 5), (2, 5), (15, 1)]) 0x8125) = (0, 0) := by decide +kernel

/-- A17, A19, A21 -/
theorem test_subReg_flag_register :
    (run (start [(15, 9), (2, 3)]) 0x8F25).reg 15 = 0xFE ∧
    (fun t : State => (t.reg 1, t.reg 15)) (run (start [(1, 9), (15, 3)]) 0x81F5) = (8, 1) ∧
    (run (start [(15, 9)]) 0x8FF5).reg 15 = 0 := by decide +kernel

/-- A22 -/
theorem test_shr :
    (fun t : State => (t.reg 1, t.reg 2, t.reg 15)) (run (start [(1, 5), (2, 0xFF)]) 0x8126) = (2, 0xFF, 1) := by
  decide +kernel

/-- A24 -/
theorem test_shr_flag_register : (run (start [(15, 0xFF)]) 0x8F26).reg 15 = 0 := by decide +kernel

/-- A26 -/
theorem test_subn :
    (fun t : State => (t.reg 1, t.reg 15)) (run (start [(1, 0x30), (2, 0x10), (15, 1)]) 0x8127) = (0xE0, 0) := by
  decide +kernel

/-- A28, A30 -/
theorem test_subn_flag_register :
    (run (start [(15, 3), (2, 9)]) 0x8F27).reg 15 = 8 ∧
    (fun t : State => (t.reg 1, t.reg 15)) (run (start [(1, 3), (15, 9)]) 0x81F7) = (0xFE, 1) := by decide +kernel

/-- A32 -/
theorem test_shl :
    (fun t : State => (t.reg 1, t.reg 2, t.reg 15)) (run (start [(1, 0x81), (2, 0xFF)]) 0x812E) = (2, 0xFF, 1) := by
  decide +kernel

/-- A34, A35 -/
theorem test_shl_flag_register :
    (run (start [(15, 0x80)]) 0x8F2E).reg 15 = 2 ∧ (run (start [(15, 0x7F)]) 0x8F2E).reg 15 = 0 := by decide +kernel

/-! ### Families 9 to D -/

/-- B2, B3 -/
theorem test_sneReg :
    (run (start [(1, 7), (2, 7)]) 0x9120).pc = 0x202 ∧ (run (start [(1, 7), (2, 8)]) 0x9127).pc = 0x204 := by
  decide +kernel

/-- B4 -/
theorem test_ldI : (run { State.reset with i := 0xFFFF } 0xA2F0).i = 0x2F0 := by decide +kernel

/-- B6 -/
theorem test_jpV0 : (run (start [(0, 0xFF)]) 0xBFFF).pc = 0x10FE := by decide +kernel

/-- B8: for every random byte -/
theorem test_rnd_zero_mask : (run (start [(3, 9)]) 0xC300).reg 3 = 0 := by
  show Config.randomByte 0 &&& 0 = 0
  simp

/-- B9: the whole byte -/
theorem test_rnd_full_mask : (run State.reset 0xC3FF).reg 3 = Config.randomByte 0 := by
  show Config.randomByte 0 &&& 255 = Config.randomByte 0
  exact BitVec.and_allOnes

/-- D3 -/
theorem test_drw_collision :
    (fun t : State => (lit t, t.reg 15))
      (run (dots (poke { start [(15, 1)] with i := 0x300 } 0x300 [0xAA]) [(0, 1), (0, 2)]) 0xD011) =
      ([(0, 0), (0, 1), (0, 4), (0, 6)], 1) := by decide +kernel

/-- D5 -/
theorem test_drw_wraps :
    (fun t : State => (lit t, t.reg 15))
      (run (poke { start [(0, 63), (1, 31)] with i := 0x300 } 0x300 [0xFF, 0xFF]) 0xD012) =
      ([(0, 0), (0, 1), (0, 2), (0, 3), (0, 4), (0, 5), (0, 6), (0, 63),
        (31, 0), (31, 1), (31, 2), (31, 3), (31, 4), (31, 5), (31, 6), (31, 63)], 0) := by decide +kernel

/-! ### Family E -/

/-- K1, K2, K3 -/
theorem test_skp :
    (run ((start [(2, 7)]).setKey 7 true) 0xE29E).pc = 0x204 ∧ (run (start [(2, 7)]) 0xE29E).pc = 0x202 ∧
    (run ((start [(2, 7)]).setKey 7 true) 0xE20E).pc = 0x204 := by decide +kernel

/-- K4 -/
theorem test_skp_key_fault : latch (run (start [(2, 16)]) 0xE29E) = (true, 5, 0x10, 0x200) := by decide +kernel

/-- K5, K6 -/
theorem test_sknp :
    (run (start [(2, 7)]) 0xE2A1).pc = 0x204 ∧ (run ((start [(2, 7)]).setKey 7 true) 0xE2A1).pc = 0x202 := by
  decide +kernel

/-- K7 -/
theorem test_sknp_key_fault : latch (run (start [(2, 0xFF)]) 0xE2A1) = (true, 5, 0xFF, 0x200) := by decide +kernel

/-! ### Family F -/

/-- F1 -/
theorem test_ldVxDt :
    (fun t : State => (t.reg 3, t.dt)) (run { State.reset with dt := 5 } 0xF307) = (5, 4) := by decide +kernel

/-- F3 -/
theorem test_ldVxK_waits :
    (fun t : State => (t.pc, t.dt, t.st)) (run { State.reset with pc := 0x206, dt := 2, st := 1 } 0xF20A) =
      (0x206, 1, 0) := by decide +kernel

/-- F4 -/
theorem test_ldVxK_lowest :
    (fun t : State => (t.reg 2, t.pc))
      (run ((State.setKey { State.reset with pc := 0x206 } 7 true).setKey 3 true) 0xF20A) = (3, 0x208) := by
  decide +kernel

/-- F6, F8 -/
theorem test_ldDtVx :
    (run (start [(0, 3)]) 0xF015).dt = 2 ∧ (run { State.reset with dt := 9 } 0xF015).dt = 0 := by decide +kernel

/-- F9, F10 -/
theorem test_ldStVx :
    (fun t : State => (t.st, t.soundOn)) (run (start [(0, 3)]) 0xF018) = (2, true) ∧
    (run (start [(0, 0xFF)]) 0xF018).st = 254 := by decide +kernel

/-- F12, F13 -/
theorem test_addI :
    (fun t : State => (t.i, t.reg 15)) (run { start [(1, 1)] with i := 0x0FFF } 0xF11E) = (0x1000, 0) ∧
    (run { start [(1, 2)] with i := 0xFFFF } 0xF11E).i = 1 := by decide +kernel

/-- F14, F18 -/
theorem test_ldF : (run (start [(10, 10)]) 0xFA29).i = 0x82 ∧ (run (start [(0, 0xFF)]) 0xF029).i = 0x54B := by
  decide +kernel

/-- F22 -/
theorem test_ldB : peek (run { start [(0, 255)] with i := 0x0FFD } 0xF033) 0xFFD 3 = [2, 5, 5] := by decide +kernel

/-- F23 -/
theorem test_ldB_fault :
    (fun t : State => (latch t, peek t 0xFFE 2)) (run { start [(0, 255)] with i := 0x0FFE } 0xF033) =
      ((true, 4, 0xFFE, 0x200), [0, 0]) := by decide +kernel

/-- F24 -/
theorem test_storeRegs :
    (fun t : State => (peek t 0x208 3, t.i)) (run { start [(0, 0x63), (1, 0x2A), (2, 0x77)] with i := 0x208 } 0xF155) =
      ([0x63, 0x2A, 0], 0x208) := by decide +kernel

/-- F27 -/
theorem test_storeRegs_fault :
    (fun t : State => (latch t, peek t 0xFFF 1)) (run { start [(0, 1), (1, 2)] with i := 0x0FFF } 0xF155) =
      ((true, 4, 0xFFF, 0x200), [0]) := by decide +kernel

/-- F28 -/
theorem test_loadRegs :
    (fun t : State => (t.reg 0, t.reg 1, t.reg 2, t.reg 3, t.i))
      (run (poke { start [(3, 0x33)] with i := 0x300 } 0x300 [2, 5, 4, 9]) 0xF265) = (2, 5, 4, 0x33, 0x300) := by
  decide +kernel

/-- F31: the byte of the font, whatever it is; 0xF0 if the font is the default one -/
theorem test_loadRegs_font :
    (run { State.reset with i := 0x50 } 0xF065).reg 0 = Config.font 0 ∧
    (Config.FontIsDefault → (run { State.reset with i := 0x50 } 0xF065).reg 0 = 0xF0) := by
  have h : (run { State.reset with i := 0x50 } 0xF065).reg 0 = Config.font 0 := rfl
  exact ⟨h, fun hf => by rw [h, hf 0 (by decide)]; rfl⟩

/-! ### Witnesses: what meets the hypotheses of each statement -/

/-- A halted state. -/
def halted : State := { State.reset with pc := 0x300, flt := true, fcause := 4, fval := 0x1000, fpc := 0x300 }

/-- A running state at the top of the invariant: `PC` 0x10FE, a full stack, a byte stored at 0xFFF. -/
def topState : State :=
  { State.reset with pc := 0x10FE, sp := 16, stack := State.reset.stack.set 15 0x1000, mem := [(0xFFF, 1)] }

/-- A running state with `I` at `a`, as an instruction at 0x300 finds it. -/
def atIndex (a : Word) : State := { State.reset with pc := 0x302, i := a, mem := [(0x400, 7)] }

/-- A running state with `I` at `a` and `PC` at `p`, as a store into the code finds it. -/
def storeAt (a p : Word) : State := { atIndex a with pc := p }

theorem test_witness_StepRunsDecodedInstruction :
    (State.reset.flt = false ∧ State.reset.pc.toNat ≤ 0x0FFE ∧
      decodeBytes [State.reset.readByte State.reset.pc.toNat, State.reset.readByte (State.reset.pc.toNat + 1)] =
        .ok (.cls, [])) ∧
    (∀ s, s = ({ State.reset with pc := 0x0FFE }).withFetchWord 16 0xD125 →
      s.flt = false ∧ s.pc.toNat = 0x0FFE ∧
      decodeBytes [s.readByte s.pc.toNat, s.readByte (s.pc.toNat + 1)] = .ok (.drw 1 2 5, [])) :=
  ⟨⟨rfl, by decide, rfl⟩, fun _ h => by subst h; exact ⟨rfl, rfl, rfl⟩⟩

theorem test_witness_HaltedCoreStaysHaltedUntilReset :
    halted.flt = true ∧
    (Event.setKey 15 true ≠ .reset ∧ ∃ t, halted.apply (.setKey 15 true) = .next t) ∧
    (Event.loadProgram [0x12, 0x00] ≠ .reset ∧ ∃ t, halted.apply (.loadProgram [0x12, 0x00]) = .next t) ∧
    (Event.step ≠ .reset ∧ ∃ t, halted.apply .step = .next t) :=
  ⟨rfl, ⟨by decide, _, rfl⟩, ⟨by decide, _, rfl⟩, ⟨by decide, _, rfl⟩⟩

theorem test_witness_FetchAboveMemoryFaults :
    (∀ s, s = ({ State.reset with pc := 0x0FFF } : State) → s.flt = false ∧ 0x0FFE < s.pc.toNat) ∧
    (∀ s, s = ({ State.reset with pc := 0xFFFF } : State) → s.flt = false ∧ 0x0FFE < s.pc.toNat) :=
  ⟨fun _ h => by subst h; decide, fun _ h => by subst h; decide⟩

/-- A fault of the fetch and a fault of an instruction (`00EE` with `SP = 0`). -/
theorem test_witness_FaultingStepKeepsOnlyTheLatch :
    (topState.flt = false ∧ ∃ t, step topState = .next t ∧ t.flt = true) ∧
    ((State.reset.withFetchWord 16 0x00EE).flt = false ∧
      ∃ t, step (State.reset.withFetchWord 16 0x00EE) = .next t ∧ t.flt = true) :=
  ⟨⟨rfl, _, rfl, rfl⟩, ⟨rfl, _, rfl, rfl⟩⟩

/-- Each cause at the first value that faults. -/
theorem test_witness_InstructionsFault :
    faultTable { State.reset with sp := 16 } (.call 0x200) = some (2, 16) ∧
    faultTable { State.reset with sp := 0 } .ret = some (3, 0) ∧
    faultTable { State.reset with sp := 17 } .ret = some (3, 17) ∧
    faultTable (atIndex 0x1000) (.drw 0 1 1) = some (4, 0x1000) ∧
    faultTable (atIndex 0x0FF2) (.drw 0 1 15) = some (4, 0x0FF2) ∧
    faultTable (atIndex 0x0FFE) (.ldB 0) = some (4, 0x0FFE) ∧
    faultTable (atIndex 0x0FF1) (.storeRegs 15) = some (4, 0x0FF1) ∧
    faultTable (atIndex 0x1000) (.loadRegs 0) = some (4, 0x1000) ∧
    faultTable (start [(2, 16)]) (.skp 2) = some (5, 16) ∧
    faultTable (start [(2, 255)]) (.sknp 2) = some (5, 255) := by decide +kernel

/-- Each check at the last value that passes, and an instruction with no check. -/
theorem test_witness_InstructionsDoNotFault :
    faultTable { State.reset with sp := 15 } (.call 0x200) = none ∧
    faultTable { State.reset with sp := 1 } .ret = none ∧ faultTable { State.reset with sp := 16 } .ret = none ∧
    faultTable (atIndex 0xFFFF) (.drw 0 1 0) = none ∧ faultTable (atIndex 0x0FF1) (.drw 0 1 15) = none ∧
    faultTable (atIndex 0x0FFD) (.ldB 0) = none ∧ faultTable (atIndex 0x0FF0) (.storeRegs 15) = none ∧
    faultTable (atIndex 0x0FFF) (.loadRegs 0) = none ∧ faultTable (start [(2, 15)]) (.skp 2) = none ∧
    faultTable (start [(2, 0)]) (.sknp 2) = none ∧ faultTable State.reset (.addReg 1 2) = none := by decide +kernel

theorem test_witness_CommittedStepTicksBothTimers :
    ∃ s t : State, s.flt = false ∧ step s = .next t ∧ t.flt = false ∧ decodeWord s.fetchWord = .ldDtVx 0 ∧ s.dt = 255 :=
  ⟨({ State.reset with dt := 255 }).withFetchWord 16 0xF015, _, rfl, rfl, rfl, rfl, rfl⟩

theorem test_witness_StepFetchesBigEndianAndKeepsKeys :
    (∃ t, (State.reset.withFetchWord 16 0x6A0F).flt = false ∧ step (State.reset.withFetchWord 16 0x6A0F) = .next t ∧
      t.flt = false) ∧
    (∃ t, topState.flt = false ∧ step topState = .next t ∧ t.flt = true) :=
  ⟨⟨_, rfl, rfl, rfl⟩, ⟨_, rfl, rfl, rfl⟩⟩

/-- The write-set rules: an instruction outside each list of writers, and a register outside the destinations of one
inside it. -/
theorem test_witness_WriteSets :
    (∃ t, exec (.addReg 1 2) (atIndex 0) = .next t ∧ (∀ x, Instr.addReg 1 2 ≠ .ldB x) ∧
      (∀ x, Instr.addReg 1 2 ≠ .storeRegs x) ∧ (3 : Reg) ∉ writesRegs (.addReg 1 2)) ∧
    (∃ t, exec (.loadRegs 14) (atIndex 0x3FF) = .next t ∧ (15 : Reg) ∉ writesRegs (.loadRegs 14)) ∧
    (∃ t, exec (.call 0x234) { State.reset with sp := 15 } = .next t ∧ (0 : Fin 16).val ≠ 15) ∧
    (∃ t, exec (.ldB 4) (atIndex 0x300) = .next t ∧ (∀ a, Instr.ldB 4 ≠ .call a) ∧ Instr.ldB 4 ≠ .ret ∧
      (∀ a, Instr.ldB 4 ≠ .ldI a) ∧ (∀ x, Instr.ldB 4 ≠ .addI x) ∧ (∀ x, Instr.ldB 4 ≠ .ldF x) ∧
      (∀ x, Instr.ldB 4 ≠ .ldDtVx x) ∧ (∀ x, Instr.ldB 4 ≠ .ldStVx x) ∧ Instr.ldB 4 ≠ .cls ∧
      ∀ x y n, Instr.ldB 4 ≠ .drw x y n) := by
  refine ⟨⟨_, rfl, by simp, by simp, by decide⟩, ⟨_, rfl, by decide⟩, ⟨_, rfl, by decide⟩, ?_⟩
  exact ⟨_, rfl, by simp, by simp, by simp, by simp, by simp, by simp, by simp, by simp, by simp⟩

/-- The invariant at the ends of its ranges, and in a halted core. -/
theorem test_witness_Inv : topState.Inv ∧ halted.Inv := by
  refine ⟨⟨rfl, by decide, by decide, by decide, ?_⟩, ⟨rfl, by decide, by decide, by decide, ?_⟩⟩
  · exact ⟨fun _ => ⟨rfl, rfl, rfl⟩, fun h => by cases h⟩
  · exact ⟨nofun, fun _ => by decide⟩

/-- A state that meets the invariant and answers a step that does not fault; and every event. -/
theorem test_witness_StepKeepsInvariant :
    (∃ s t : State, s.Inv ∧ s.dt = 255 ∧ step s = .next t ∧ t.flt = false) ∧
    (∀ e ∈ [Event.reset, .loadProgram [1, 2], .setKey 15 true, .step], ∃ t, topState.apply e = .next t) := by
  refine ⟨⟨{ State.reset with dt := 255 }, _, ⟨rfl, by decide, by decide, by decide, ?_⟩, rfl, rfl, rfl⟩, ?_⟩
  · exact ⟨fun _ => ⟨rfl, rfl, rfl⟩, fun h => by cases h⟩
  · intro e he
    simp only [List.mem_cons, List.not_mem_nil, or_false] at he
    rcases he with rfl | rfl | rfl | rfl <;> exact ⟨_, rfl⟩

theorem test_witness_ResetLeavesTheTabledValues :
    79 < 80 ∧ (0x4F < 4096 ∧ ¬ (0x50 ≤ 0x4F ∧ 0x4F < 0xA0)) ∧ (0xA0 < 4096 ∧ ¬ (0x50 ≤ 0xA0 ∧ 0xA0 < 0xA0)) := by decide

theorem test_witness_ReturnPopsThePC :
    255 < 256 ∧ ({ State.reset with sp := 1 } : State).sp.toNat = (0 : Fin 16).val + 1 ∧
    ({ State.reset with sp := 16 } : State).sp.toNat = (15 : Fin 16).val + 1 := by decide

theorem test_witness_CallPushesAdvancedPC :
    State.reset.sp.toNat = (0 : Fin 16).val ∧ ({ State.reset with sp := 15 } : State).sp.toNat = (15 : Fin 16).val := by
  decide

/-- `f = 1` and `f = 0` for each of the four shapes of operands, in `8xy5` and (the operands exchanged) in `8xy7`. -/
theorem test_witness_SubtractCaseTables :
    (1 = if ((start [(1, 9), (2, 3), (15, 0)]).reg 1).toNat > ((start [(1, 9), (2, 3), (15, 0)]).reg 2).toNat then 1 else 0) ∧
    (0 = if ((start [(1, 5), (2, 5)]).reg 1).toNat > ((start [(1, 5), (2, 5)]).reg 2).toNat then 1 else 0) ∧
    (1 = if ((start [(15, 9), (2, 3)]).reg 15).toNat > ((start [(15, 9), (2, 3)]).reg 2).toNat then 1 else 0) ∧
    (1 = if ((start [(1, 9), (15, 3)]).reg 1).toNat > ((start [(1, 9), (15, 3)]).reg 15).toNat then 1 else 0) ∧
    (0 = if ((start [(15, 9)]).reg 15).toNat > ((start [(15, 9)]).reg 15).toNat then 1 else 0) ∧
    ((1 : Reg) ≠ 0xF ∧ (2 : Reg) ≠ 0xF ∧ (15 : Reg) = 0xF) := by decide +kernel

theorem test_witness_RandomByteIsMasked : (0x0F : BitVec 8).getLsbD 4 = false ∧ (0x00 : BitVec 8).getLsbD 0 = false := by
  decide

/-- No rows and `I` out of memory; 15 rows at the last place; a covered cell and one that is not; a covered cell that is
on; and no covered cell that is on. -/
theorem test_witness_DrawFlipsCoveredCells :
    ((0 : BitVec 4).toNat = 0 ∨ (atIndex 0xFFFF).i.toNat + (0 : BitVec 4).toNat - 1 ≤ 4095) ∧
    ((15 : BitVec 4).toNat = 0 ∨ (atIndex 0x0FF1).i.toNat + (15 : BitVec 4).toNat - 1 ≤ 4095) ∧
    (SpriteCovers 63 31 2 (fun _ => 0xFF) 0 6 ∧ ¬ SpriteCovers 63 31 2 (fun _ => 0xFF) 0 7) ∧
    (∃ r c, SpriteCovers 63 31 2 (fun _ => 0xFF) r c ∧ (dots State.reset [(0, 6)]).cell r c = true) ∧
    (∀ r c, SpriteCovers 63 31 2 (fun _ => 0xFF) r c → State.reset.cell r c = false) := by
  have hc : SpriteCovers 63 31 2 (fun _ => 0xFF) 0 6 := ⟨1, 7, by decide, by decide, by decide, by decide, by decide⟩
  refine ⟨.inl rfl, .inr (by decide), ⟨hc, ?_⟩, ⟨0, 6, hc, by decide +kernel⟩, ?_⟩
  · rintro ⟨row, col, _, hcol, _, _, h⟩
    simp at h
    omega
  · intro r c _
    simp [State.cell]

theorem test_witness_KeypadSkipsMovePC :
    ((start [(2, 0)]).reg 2).toNat = (0 : Fin 16).val ∧ ((start [(2, 15)]).reg 2).toNat = (15 : Fin 16).val := by
  decide +kernel

/-- Only key 15; keys 0 and 15; no key. -/
theorem test_witness_KeyWaitTakesLowestKeyOrRewinds :
    ((State.reset.setKey 15 true).key[(15 : Fin 16)] = true ∧
      ∀ j : Fin 16, j < 15 → (State.reset.setKey 15 true).key[j] = false) ∧
    (((State.reset.setKey 15 true).setKey 0 true).key[(0 : Fin 16)] = true ∧
      ∀ j : Fin 16, j < 0 → ((State.reset.setKey 15 true).setKey 0 true).key[j] = false) ∧
    (∀ k : Fin 16, State.reset.key[k] = false) := by decide +kernel

theorem test_witness_SetTimerThenTick :
    (∃ s : State, s.flt = false ∧ s.pc.toNat ≤ 0x0FFE ∧ decodeWord s.fetchWord = .ldDtVx 0) ∧
    (∃ s : State, s.flt = false ∧ s.pc.toNat ≤ 0x0FFE ∧ decodeWord s.fetchWord = .ldStVx 15) :=
  ⟨⟨({ State.reset with pc := 0x0FFE }).withFetchWord 16 0xF015, rfl, by decide, rfl⟩,
    ⟨({ State.reset with pc := 0x0FFE }).withFetchWord 16 0xFF18, rfl, by decide, rfl⟩⟩

/-- `Fx33` at the last place; `Fx55` and `Fx65` with 16 registers and with one at the last place. -/
theorem test_witness_Blocks :
    ((atIndex 0x0FFD).mem.wf = true ∧ (atIndex 0x0FFD).i.toNat + 2 ≤ 4095) ∧
    ((atIndex 0x0FF0).mem.wf = true ∧ (atIndex 0x0FF0).i.toNat + (15 : Reg).val ≤ 4095 ∧ (15 : Reg) ≤ 15) ∧
    ((atIndex 0x0FFF).mem.wf = true ∧ (atIndex 0x0FFF).i.toNat + (0 : Reg).val ≤ 4095 ∧ (0 : Reg) ≤ 0) := by
  decide +kernel

theorem test_witness_NoOpOnlyAdvancesAndTicks :
    ∃ s : State, s.flt = false ∧ s.pc.toNat ≤ 0x0FFE ∧ decodeWord s.fetchWord = .nop (.lowF 0xFF) :=
  ⟨({ State.reset with pc := 0x0FFE }).withFetchWord 16 0xF0FF, rfl, by decide, rfl⟩

theorem test_witness_CallThenReturnRestoresPC : ({ State.reset with sp := 15 } : State).sp.toNat < 16 := by decide

theorem test_witness_DrawingTwiceErases :
    ([] : List Byte).length ≤ 15 ∧ (List.replicate 15 (0xFF : Byte)).length ≤ 15 := by decide

/-- The general conditions at both ends: 16 registers ending at 0xFFF and three digits ending at 0xFFF. -/
theorem test_witness_StoreIsSeenByNextFetch :
    ((storeAt 0x0FF0 0x0FFE).mem.wf = true ∧ (storeAt 0x0FF0 0x0FFE).pc.toNat ≤ 0x0FFE ∧
      (storeAt 0x0FF0 0x0FFE).i.toNat + (15 : Reg).val ≤ 4095) ∧
    ((storeAt 0x0FFD 0x0FFE).mem.wf = true ∧ (storeAt 0x0FFD 0x0FFE).pc.toNat ≤ 0x0FFE ∧
      (storeAt 0x0FFD 0x0FFE).i.toNat + 2 ≤ 4095) := by decide +kernel

/-- `Fx55`: the word at the end and at the start of the block, its high byte only, its low byte only, neither. -/
theorem test_witness_StoreIsSeen_registers :
    ((15 : Reg) ≤ 15 ∧ (15 : Reg).val = (14 : Reg).val + 1 ∧
      (storeAt 0x0FF0 0x0FFE).pc.toNat = (storeAt 0x0FF0 0x0FFE).i.toNat + (14 : Reg).val) ∧
    ((1 : Reg) ≤ 1 ∧ (1 : Reg).val = (0 : Reg).val + 1 ∧
      (storeAt 0x0302 0x0302).pc.toNat = (storeAt 0x0302 0x0302).i.toNat + (0 : Reg).val) ∧
    (storeAt 0x0FFE 0x0FFE).pc.toNat = (storeAt 0x0FFE 0x0FFE).i.toNat + (0 : Reg).val ∧
    (storeAt 0x0FFF 0x0FFE).pc.toNat + 1 = (storeAt 0x0FFF 0x0FFE).i.toNat ∧
    (storeAt 0x0FFF 0x0FFD).pc.toNat + 1 < (storeAt 0x0FFF 0x0FFD).i.toNat ∧
    (storeAt 0x0300 0x0302).i.toNat + (1 : Reg).val < (storeAt 0x0300 0x0302).pc.toNat := by decide +kernel

/-- `Fx33`: the word at each place of the block, its low byte only, neither. -/
theorem test_witness_StoreIsSeen_digits :
    (storeAt 0x0302 0x0302).pc.toNat = (storeAt 0x0302 0x0302).i.toNat ∧
    (storeAt 0x0FFD 0x0FFE).pc.toNat = (storeAt 0x0FFD 0x0FFE).i.toNat + 1 ∧
    (storeAt 0x0FFC 0x0FFE).pc.toNat = (storeAt 0x0FFC 0x0FFE).i.toNat + 2 ∧
    (storeAt 0x0FFD 0x0FFC).pc.toNat + 1 = (storeAt 0x0FFD 0x0FFC).i.toNat ∧
    (storeAt 0x0FFD 0x0FFB).pc.toNat + 1 < (storeAt 0x0FFD 0x0FFB).i.toNat ∧
    (storeAt 0x0300 0x0303).i.toNat + 2 < (storeAt 0x0300 0x0303).pc.toNat := by decide +kernel

theorem test_witness_FinalStateStaysFinal : (State.reset.withFetchWord 16 0x1200).Final :=
  ⟨rfl, rfl, rfl, by decide, 0x200, rfl, rfl⟩

theorem test_witness_UnloadedCoreRunsToFetchFault : 0 ≤ 1792 ∧ 1792 ≤ 1792 := by decide

theorem test_witness_DecodeOfEncodeIsTheInstruction :
    (Instr.drw 15 0 15).wellFormed = true ∧ (Instr.nop (.lowF 0xFF)).wellFormed = true := by decide

/-- A word on a line of the map, and a word on none. -/
theorem test_witness_DecodeFollowsTheOpcodeMap :
    (∃ r ∈ opcodeTable, (0xF365#16) &&& r.mask = r.pattern) ∧
    (∀ r ∈ opcodeTable, (0xF366#16) &&& r.mask ≠ r.pattern) := by decide

/-- Another key at either end; a halted core and a running one. -/
theorem test_witness_KeypadAndObservations :
    ((15 : Fin 16) ≠ 0 ∧ (0 : Fin 16) ≠ 15) ∧ halted.flt = true ∧ topState.flt = false := by decide +kernel

/-- The export is row-major: only the cell (1, 2) is on, and only element 66 is all ones. -/
theorem test_frameBuffer_row_major :
    (dots State.reset [(1, 2)]).frameBuffer[66]? = some (BitVec.allOnes Config.pixelW) ∧
    (dots State.reset [(1, 2)]).frameBuffer[65]? = some 0 ∧ (dots State.reset [(1, 2)]).frameBuffer[129]? = some 0 :=
  ⟨rfl, rfl, rfl⟩

theorem test_witness_LoadProgramCopiesBytes :
    State.reset.mem.wf = true ∧ (List.replicate 3584 (0 : Byte)).length ≤ 3584 ∧
    3584 < (List.replicate 3585 (0 : Byte)).length ∧ (0 < [(0x12 : Byte), 0].length) ∧
    ¬ (0x200 ≤ 0x202 ∧ 0x202 < 0x200 + [(0x12 : Byte), 0].length) := by
  refine ⟨rfl, ?_, ?_, by decide, by decide⟩
  · rw [List.length_replicate]
  · rw [List.length_replicate]; decide

end Sys2Proof.Tests
end

namespace Sys2Proof.Machine

/-! ### The timers (`10_state.md` R27 to R29) -/

/-- A skip leaves the delay timer alone. -/
@[simp] theorem State.skipIf_dt (c : Bool) (s : State) : (State.skipIf c s).dt = s.dt := by
  rw [State.skipIf_eq, State.setPc_dt]

/-- A skip leaves the sound timer alone. -/
@[simp] theorem State.skipIf_st (c : Bool) (s : State) : (State.skipIf c s).st = s.st := by
  rw [State.skipIf_eq, State.setPc_st]

/-- `Fx15` alone writes `DT` and `Fx18` alone writes `ST`: every other instruction leaves the timer as it was, whether its
check passes or it faults. -/
theorem exec_keeps_timers {i : Instr} {s t : State} (h : exec i s = .next t) :
    ((∀ x, i ≠ .ldDtVx x) → t.dt = s.dt) ∧ ((∀ x, i ≠ .ldStVx x) → t.st = s.st) := by
  cases i with
  | ldDtVx x =>
    cases h
    exact ⟨fun hi => absurd rfl (hi x), fun _ => State.setDt_st ..⟩
  | ldStVx x =>
    cases h
    exact ⟨fun _ => State.setSt_dt .., fun hi => absurd rfl (hi x)⟩
  -- the skips
  | seImm | sneImm | seReg | sneReg =>
    cases h
    exact ⟨fun _ => State.skipIf_dt .., fun _ => State.skipIf_st ..⟩
  | skp | sknp =>
    simp only [exec, execSkp, execSknp] at h
    split at h <;> cases h
    · exact ⟨fun _ => State.skipIf_dt .., fun _ => State.skipIf_st ..⟩
    · exact ⟨fun _ => rfl, fun _ => rfl⟩
  -- the other arms with two outcomes
  | ret | call | drw | ldVxK | ldB | storeRegs | loadRegs =>
    simp only [exec, execRet, execCall, execDrw, execLdVxK, execLdB, execStoreRegs, execLoadRegs] at h
    split at h <;> cases h <;> exact ⟨fun _ => rfl, fun _ => rfl⟩
  -- the arms with one outcome
  | cls | jp | ldImm | addImm | ldReg | orReg | andReg | xorReg | addReg | subReg | shr | subn | shl | ldI | jpV0 | rnd
  | ldVxDt | addI | ldF | nop =>
    cases h
    exact ⟨fun _ => rfl, fun _ => rfl⟩

theorem exec_ldDtVx_dt {x : Reg} {s t : State} (h : exec (.ldDtVx x) s = .next t) : t.dt = s.reg x := by
  cases h
  exact State.setDt_dt ..

theorem exec_ldStVx_st {x : Reg} {s t : State} (h : exec (.ldStVx x) s = .next t) : t.st = s.reg x := by
  cases h
  exact State.setSt_st ..

/-- A step that leaves a running core running has executed the decoded instruction and ended with the tick
(`40_step_driver.md` R120, R124). -/
theorem step_committed {s t : State} (h : step s = .next t) (hs : s.flt = false) (ht : t.flt = false) :
    ∃ u, exec (decodeWord s.fetchWord) s.fetched = .next u ∧ t = u.tick := by
  obtain ⟨hhalt, -⟩ | ⟨-, -, rfl⟩ | ⟨-, -, u, hu, rfl⟩ := step_cases h
  · simp [hs] at hhalt
  · simp at ht
  · cases hflt : u.flt with
    | false => exact ⟨u, hu, s.commit_running u hflt⟩
    | true => simp [State.commit_faulted s u hflt, hflt] at ht

/-- Settles O7: a committed step is the instruction's effect followed by the tick, and an instruction leaves in each timer
the register its load names or the value that was there. -/
theorem committedStepTicksBothTimers : Obligations.CommittedStepTicksBothTimers := by
  intro s t hs hstep ht
  obtain ⟨u, hu, rfl⟩ := step_committed hstep hs ht
  obtain ⟨hdt, hst⟩ := exec_keeps_timers hu
  rw [State.tick_dt, State.tick_st, tickTimer_toNat, tickTimer_toNat]
  constructor
  · split
    next x hi =>
      rw [hi] at hu
      rw [exec_ldDtVx_dt hu, State.reg_fetched]
    next hi => rw [hdt hi, State.fetched_dt]
  · split
    next x hi =>
      rw [hi] at hu
      rw [exec_ldStVx_st hu, State.reg_fetched]
    next hi => rw [hst hi, State.fetched_st]

end Sys2Proof.Machine

namespace Sys2Proof

/-! ### Load and add immediate: decoding (`42_flow_skip_imm.md` R155, R156) -/

@[simp] theorem decodeWord_formatXkk_ldImm (x : Reg) (kk : BitVec 8) : decodeWord (formatXkk 0x6 x kk) = .ldImm x kk := by
  simp [decodeWord]

@[simp] theorem decodeWord_formatXkk_addImm (x : Reg) (kk : BitVec 8) : decodeWord (formatXkk 0x7 x kk) = .addImm x kk := by
  simp [decodeWord]

/-- `p·0x1000 + x·0x100 + kk` is the word of format `XKK` with those fields (`30_encoding.md` R92). -/
theorem ofNat_eq_formatXkk (p : BitVec 4) (x : Reg) (kk : BitVec 8) :
    BitVec.ofNat 16 (p.toNat * 0x1000 + x.val * 256 + kk.toNat) = formatXkk p x kk :=
  ofNat_eq_of_toNat (formatXkk_toNat p x kk)

end Sys2Proof

namespace Sys2Proof.Machine

/-! ### Load and add immediate: effect (`42_flow_skip_imm.md` R155, R156) -/

/-- Writing `V[x]` changes nothing but `V[x]`. -/
theorem State.setReg_frame (s : State) (x : Reg) (b : Byte) : Frame { regs := [x] } s (s.setReg x b) where
  regs r hr := State.reg_setReg_other s x r b (Ne.symm (List.ne_of_not_mem_cons hr))
  bytes _ _ := State.readByte_setReg ..
  i _ := State.setReg_i ..
  pc _ := State.setReg_pc ..
  stack _ _ := by rw [State.setReg_stack]
  sp _ := State.setReg_sp ..
  dt _ := State.setReg_dt ..
  st _ := State.setReg_st ..
  fb _ := State.setReg_fb ..
  draws _ := State.setReg_draws ..
  key := State.setReg_key ..
  ir := State.setReg_ir ..
  latch := ⟨State.setReg_flt .., State.setReg_fcause .., State.setReg_fval .., State.setReg_fpc ..⟩

theorem exec_ldImm (x : Reg) (kk : BitVec 8) (s : State) : exec (.ldImm x kk) s = .next (s.setReg x kk) := rfl

theorem exec_addImm (x : Reg) (kk : BitVec 8) (s : State) :
    exec (.addImm x kk) s = .next (s.setReg x (addBytes (s.reg x) kk)) := rfl

/-- Settles O24: the word decodes by its fields, and the instruction is the one register write of `kk`. -/
theorem loadImmediateSetsRegister : Obligations.LoadImmediateSetsRegister := by
  intro x kk
  constructor
  · exact (congrArg decodeWord (ofNat_eq_formatXkk 0x6 x kk)).trans (decodeWord_formatXkk_ldImm x kk)
  · intro s
    exact ⟨_, exec_ldImm x kk s, State.reg_setReg_same s x kk, State.setReg_frame s x kk⟩

/-- Settles O25: the word decodes by its fields, and the instruction is the one register write of the wrapped sum. -/
theorem addImmediateWrapsWithoutFlag : Obligations.AddImmediateWrapsWithoutFlag := by
  intro x kk
  constructor
  · exact (congrArg decodeWord (ofNat_eq_formatXkk 0x7 x kk)).trans (decodeWord_formatXkk_addImm x kk)
  · intro s
    refine ⟨_, exec_addImm x kk s, ?_, State.setReg_frame s x _⟩
    rw [State.reg_setReg_same, addBytes_toNat]

end Sys2Proof.Machine

namespace Sys2Proof

/-! ### Copy and logic: decoding (`43_alu_8.md` R171 to R174) -/

@[simp] theorem decodeWord_formatXyn_ldReg (x y : Reg) : decodeWord (formatXyn 0x8 x y 0x0) = .ldReg x y := by
  simp [decodeWord, decodeFamily8]

@[simp] theorem decodeWord_formatXyn_orReg (x y : Reg) : decodeWord (formatXyn 0x8 x y 0x1) = .orReg x y := by
  simp [decodeWord, decodeFamily8]

@[simp] theorem decodeWord_formatXyn_andReg (x y : Reg) : decodeWord (formatXyn 0x8 x y 0x2) = .andReg x y := by
  simp [decodeWord, decodeFamily8]

@[simp] theorem decodeWord_formatXyn_xorReg (x y : Reg) : decodeWord (formatXyn 0x8 x y 0x3) = .xorReg x y := by
  simp [decodeWord, decodeFamily8]

/-- `p·0x1000 + n + x·0x100 + y·0x10` is the word of format `XYN` with those fields (`30_encoding.md` R92). The opcode's
own nibbles `p` and `n` stand together, so that their sum is the literal (`0x8001`) a statement about a word writes. -/
theorem ofNat_eq_formatXyn (p : BitVec 4) (x y : Reg) (n : BitVec 4) :
    BitVec.ofNat 16 (p.toNat * 0x1000 + n.toNat + x.val * 256 + y.val * 16) = formatXyn p x y n := by
  apply ofNat_eq_of_toNat
  rw [formatXyn_toNat]
  omega

end Sys2Proof

namespace Sys2Proof.Machine

/-! ### Copy and logic: effect (`43_alu_8.md` R171 to R174) -/

theorem exec_ldReg (x y : Reg) (s : State) : exec (.ldReg x y) s = .next (s.setReg x (s.reg y)) := rfl

theorem exec_orReg (x y : Reg) (s : State) : exec (.orReg x y) s = .next (s.setReg x (s.reg x ||| s.reg y)) := rfl

theorem exec_andReg (x y : Reg) (s : State) : exec (.andReg x y) s = .next (s.setReg x (s.reg x &&& s.reg y)) := rfl

theorem exec_xorReg (x y : Reg) (s : State) : exec (.xorReg x y) s = .next (s.setReg x (s.reg x ^^^ s.reg y)) := rfl

/-- Settles O26: the four words decode by their fields, and each instruction is the one register write of the copy or of
the bitwise result. -/
theorem copyAndLogicWriteOnlyVx : Obligations.CopyAndLogicWriteOnlyVx := by
  intro x y
  refine ⟨?ldRegWord, ?orRegWord, ?andRegWord, ?xorRegWord, fun s => ⟨?ldReg, ?orReg, ?andReg, ?xorReg⟩⟩
  case ldRegWord => exact (congrArg decodeWord (ofNat_eq_formatXyn 0x8 x y 0x0)).trans (decodeWord_formatXyn_ldReg x y)
  case orRegWord => exact (congrArg decodeWord (ofNat_eq_formatXyn 0x8 x y 0x1)).trans (decodeWord_formatXyn_orReg x y)
  case andRegWord => exact (congrArg decodeWord (ofNat_eq_formatXyn 0x8 x y 0x2)).trans (decodeWord_formatXyn_andReg x y)
  case xorRegWord => exact (congrArg decodeWord (ofNat_eq_formatXyn 0x8 x y 0x3)).trans (decodeWord_formatXyn_xorReg x y)
  case ldReg => exact ⟨_, exec_ldReg x y s, State.reg_setReg_same s x _, State.setReg_frame s x _⟩
  case orReg =>
    refine ⟨_, exec_orReg x y s, State.setReg_frame s x _, fun k => ?_⟩
    rw [State.reg_setReg_same, BitVec.getLsbD_or]
  case andReg =>
    refine ⟨_, exec_andReg x y s, State.setReg_frame s x _, fun k => ?_⟩
    rw [State.reg_setReg_same, BitVec.getLsbD_and]
  case xorReg =>
    refine ⟨_, exec_xorReg x y s, State.setReg_frame s x _, fun k => ?_⟩
    rw [State.reg_setReg_same, BitVec.getLsbD_xor]

end Sys2Proof.Machine

namespace Sys2Proof

/-! ### Load index: decoding (`44_family_9_to_D.md` R191) -/

@[simp] theorem decodeWord_formatNnn_ldI (nnn : BitVec 12) : decodeWord (formatNnn 0xA nnn) = .ldI nnn := by
  simp [decodeWord]

/-- `p·0x1000 + nnn` is the word of format `NNN` with those fields (`30_encoding.md` R92). -/
theorem ofNat_eq_formatNnn (p : BitVec 4) (nnn : BitVec 12) :
    BitVec.ofNat 16 (p.toNat * 0x1000 + nnn.toNat) = formatNnn p nnn :=
  ofNat_eq_of_toNat (formatNnn_toNat p nnn)

end Sys2Proof

namespace Sys2Proof.Machine

/-! ### Load index: effect (`44_family_9_to_D.md` R191) -/

/-- Zero extension keeps the address's value, so bits 15..12 of the word are 0. -/
@[simp] theorem zextAddr_toNat (nnn : BitVec 12) : (zextAddr nnn).toNat = nnn.toNat :=
  BitVec.toNat_setWidth_of_le (by decide)

/-- Writing `I` changes nothing but `I`. -/
theorem State.setI_frame (s : State) (w : Word) : Frame { i := true } s (s.setI w) where
  regs _ _ := State.reg_setI ..
  bytes _ _ := State.readByte_setI ..
  i h := absurd h (by decide)
  pc _ := State.setI_pc ..
  stack _ _ := by rw [State.setI_stack]
  sp _ := State.setI_sp ..
  dt _ := State.setI_dt ..
  st _ := State.setI_st ..
  fb _ := State.setI_fb ..
  draws _ := State.setI_draws ..
  key := State.setI_key ..
  ir := State.setI_ir ..
  latch := ⟨State.setI_flt .., State.setI_fcause .., State.setI_fval .., State.setI_fpc ..⟩

theorem exec_ldI (nnn : BitVec 12) (s : State) : exec (.ldI nnn) s = .next (s.setI (zextAddr nnn)) := rfl

/-- Settles O32: the word decodes by its fields, and the instruction is the one write of `I` with the zero-extended
address. -/
theorem loadIndexSetsI : Obligations.LoadIndexSetsI := by
  intro nnn
  constructor
  · exact (congrArg decodeWord (ofNat_eq_formatNnn 0xA nnn)).trans (decodeWord_formatNnn_ldI nnn)
  · intro s
    refine ⟨_, exec_ldI nnn s, ?_, State.setI_frame s _⟩
    rw [State.setI_i, zextAddr_toNat]

end Sys2Proof.Machine

namespace Sys2Proof

/-! ### Timer loads and glyph address: decoding (`46_family_F.md` R222, R223, R225) -/

@[simp] theorem decodeWord_formatXkk_ldDtVx (x : Reg) : decodeWord (formatXkk 0xF x 0x15) = .ldDtVx x := by
  simp [decodeWord, decodeFamilyF]

@[simp] theorem decodeWord_formatXkk_ldStVx (x : Reg) : decodeWord (formatXkk 0xF x 0x18) = .ldStVx x := by
  simp [decodeWord, decodeFamilyF]

@[simp] theorem decodeWord_formatXkk_ldF (x : Reg) : decodeWord (formatXkk 0xF x 0x29) = .ldF x := by
  simp [decodeWord, decodeFamilyF]

/-- `ofNat_eq_formatXkk` with the opcode's own digits `p` and `kk` together, so that their sum is the literal (`0xF015`) a
statement about a word of family F writes. -/
theorem ofNat_eq_formatXkk_opcode (p : BitVec 4) (x : Reg) (kk : BitVec 8) :
    BitVec.ofNat 16 (p.toNat * 0x1000 + kk.toNat + x.val * 256) = formatXkk p x kk := by
  rw [Nat.add_right_comm]
  exact ofNat_eq_formatXkk p x kk

end Sys2Proof

namespace Sys2Proof.Machine

/-! ### Timer loads and glyph address: effect (`46_family_F.md` R222, R223, R225) -/

/-- Writing `DT` changes nothing but `DT`. -/
theorem State.setDt_frame (s : State) (b : Byte) : Frame { dt := true } s (s.setDt b) where
  regs _ _ := State.reg_setDt ..
  bytes _ _ := State.readByte_setDt ..
  i _ := State.setDt_i ..
  pc _ := State.setDt_pc ..
  stack _ _ := by rw [State.setDt_stack]
  sp _ := State.setDt_sp ..
  dt h := absurd h (by decide)
  st _ := State.setDt_st ..
  fb _ := State.setDt_fb ..
  draws _ := State.setDt_draws ..
  key := State.setDt_key ..
  ir := State.setDt_ir ..
  latch := ⟨State.setDt_flt .., State.setDt_fcause .., State.setDt_fval .., State.setDt_fpc ..⟩

/-- Writing `ST` changes nothing but `ST`. -/
theorem State.setSt_frame (s : State) (b : Byte) : Frame { st := true } s (s.setSt b) where
  regs _ _ := State.reg_setSt ..
  bytes _ _ := State.readByte_setSt ..
  i _ := State.setSt_i ..
  pc _ := State.setSt_pc ..
  stack _ _ := by rw [State.setSt_stack]
  sp _ := State.setSt_sp ..
  dt _ := State.setSt_dt ..
  st h := absurd h (by decide)
  fb _ := State.setSt_fb ..
  draws _ := State.setSt_draws ..
  key := State.setSt_key ..
  ir := State.setSt_ir ..
  latch := ⟨State.setSt_flt .., State.setSt_fcause .., State.setSt_fval .., State.setSt_fpc ..⟩

theorem exec_ldDtVx (x : Reg) (s : State) : exec (.ldDtVx x) s = .next (s.setDt (s.reg x)) := rfl

theorem exec_ldStVx (x : Reg) (s : State) : exec (.ldStVx x) s = .next (s.setSt (s.reg x)) := rfl

theorem exec_ldF (x : Reg) (s : State) : exec (.ldF x) s = .next (s.setI (glyphAddr (s.reg x))) := rfl

/-- The glyph address of the largest byte is 0x54B, so the 16-bit word holds the whole sum (`46_family_F.md` R225). -/
theorem glyphAddr_toNat (b : Byte) : (glyphAddr b).toNat = 0x50 + 5 * b.toNat := by
  have hb : b.toNat < 256 := b.isLt
  have hfits : 0x50 + 5 * b.toNat < 2 ^ 16 := by omega
  rw [glyphAddr, BitVec.toNat_ofNat, Nat.mod_eq_of_lt hfits]

/-- The sound is on after a tick exactly where the timer stood at 2 or more (`10_state.md` R29, R31). -/
theorem State.tick_soundOn (s : State) : s.tick.soundOn = decide (s.st.toNat ≥ 2) := by
  rw [State.soundOn, State.tick_st, tickTimer_toNat, decide_eq_decide]
  omega

/-- A running core whose fetch is in range and whose instruction raises no fault ends its step with the tick
(`40_step_driver.md` R120, R124). -/
theorem step_ticks {i : Instr} {s u : State} (hs : s.flt = false) (hpc : s.pc.toNat ≤ 0x0FFE)
    (hi : decodeWord s.fetchWord = i) (hu : exec i s.fetched = .next u) (hflt : u.flt = false) :
    step s = .next u.tick := by
  rw [step_exec s hs (s.fetchInRange_iff.mpr hpc) (hi ▸ hu), State.commit_running s u hflt]

theorem step_ldDtVx {x : Reg} {s : State} (hs : s.flt = false) (hpc : s.pc.toNat ≤ 0x0FFE)
    (hi : decodeWord s.fetchWord = .ldDtVx x) : step s = .next (s.fetched.setDt (s.reg x)).tick := by
  apply step_ticks hs hpc hi
  · rw [exec_ldDtVx, State.reg_fetched]
  · rw [State.setDt_flt, State.fetched_flt, hs]

theorem step_ldStVx {x : Reg} {s : State} (hs : s.flt = false) (hpc : s.pc.toNat ≤ 0x0FFE)
    (hi : decodeWord s.fetchWord = .ldStVx x) : step s = .next (s.fetched.setSt (s.reg x)).tick := by
  apply step_ticks hs hpc hi
  · rw [exec_ldStVx, State.reg_fetched]
  · rw [State.setSt_flt, State.fetched_flt, hs]

/-- Settles O39: the words decode by their fields, each instruction is the one write of its timer, and the step's tick
follows that write. -/
theorem setTimerThenTick : Obligations.SetTimerThenTick := by
  intro x
  refine ⟨?dtWord, ?stWord, fun s => ⟨?execDt, ?execSt, fun hs hpc hi => ?stepDt, fun hs hpc hi => ?stepSt⟩⟩
  case dtWord => exact (congrArg decodeWord (ofNat_eq_formatXkk_opcode 0xF x 0x15)).trans (decodeWord_formatXkk_ldDtVx x)
  case stWord => exact (congrArg decodeWord (ofNat_eq_formatXkk_opcode 0xF x 0x18)).trans (decodeWord_formatXkk_ldStVx x)
  case execDt => exact ⟨_, exec_ldDtVx x s, State.setDt_dt s _, State.setDt_frame s _⟩
  case execSt => exact ⟨_, exec_ldStVx x s, State.setSt_st s _, State.setSt_frame s _⟩
  case stepDt =>
    refine ⟨_, step_ldDtVx hs hpc hi, ?_⟩
    rw [State.tick_dt, tickTimer_toNat, State.setDt_dt]
  case stepSt =>
    refine ⟨_, step_ldStVx hs hpc hi, ?_, ?_⟩
    · rw [State.tick_st, tickTimer_toNat, State.setSt_st]
    · rw [State.tick_soundOn, State.setSt_st]

/-- Settles O41: the word decodes by its fields, and the instruction is the one write of `I` with the glyph address, which
no reduction to 16 bits changes. -/
theorem glyphAddressUsesWholeByte : Obligations.GlyphAddressUsesWholeByte := by
  intro x
  constructor
  · exact (congrArg decodeWord (ofNat_eq_formatXkk_opcode 0xF x 0x29)).trans (decodeWord_formatXkk_ldF x)
  · intro s
    refine ⟨_, exec_ldF x s, ?_, State.setI_frame s _⟩
    rw [State.setI_i, glyphAddr_toNat]

end Sys2Proof.Machine

namespace Sys2Proof.Machine

/-! ### Frames: how they are put together, and one per update of the state (`10_state.md` R20) -/

/-- What either of two changes may touch. -/
def Touches.append (m n : Touches) : Touches where
  regs := m.regs ++ n.regs
  bytes := m.bytes ++ n.bytes
  i := m.i || n.i
  pc := m.pc || n.pc
  stackEntries := m.stackEntries ++ n.stackEntries
  sp := m.sp || n.sp
  dt := m.dt || n.dt
  st := m.st || n.st
  fb := m.fb || n.fb
  draws := m.draws || n.draws

/-- No change fits every frame. -/
theorem Frame.refl (m : Touches) (s : State) : Frame m s s where
  regs _ _ := rfl
  bytes _ _ := rfl
  i _ := rfl
  pc _ := rfl
  stack _ _ := rfl
  sp _ := rfl
  dt _ := rfl
  st _ := rfl
  fb _ := rfl
  draws _ := rfl
  key := rfl
  ir := rfl
  latch := ⟨rfl, rfl, rfl, rfl⟩

/-- A field two changes leave alone, each unless its flag is set, is left alone unless one of the flags is. -/
theorem unflagged_trans {α : Type} {p q : Bool} {a b c : α} (hp : p = false → b = a) (hq : q = false → c = b)
    (h : (q || p) = false) : c = a := by
  obtain ⟨hq', hp'⟩ := Bool.or_eq_false_iff.mp h
  exact (hq hq').trans (hp hp')

/-- The same for an entry (a register, a byte, a stack entry) two changes leave alone unless they list it. -/
theorem unlisted_trans {ι α : Type} {l l' : List ι} {k : ι} {a b c : α} (hl : k ∉ l → b = a)
    (hl' : k ∉ l' → c = b) (h : k ∉ l' ++ l) : c = a :=
  (hl' fun hk => h (List.mem_append_left l hk)).trans (hl fun hk => h (List.mem_append_right l' hk))

/-- Two changes one after the other touch what either touches. -/
theorem Frame.trans {m n : Touches} {s t u : State} (hst : Frame m s t) (htu : Frame n t u) :
    Frame (n.append m) s u where
  regs r := unlisted_trans (hst.regs r) (htu.regs r)
  bytes a := unlisted_trans (hst.bytes a) (htu.bytes a)
  i := unflagged_trans hst.i htu.i
  pc := unflagged_trans hst.pc htu.pc
  stack k := unlisted_trans (hst.stack k) (htu.stack k)
  sp := unflagged_trans hst.sp htu.sp
  dt := unflagged_trans hst.dt htu.dt
  st := unflagged_trans hst.st htu.st
  fb := unflagged_trans hst.fb htu.fb
  draws := unflagged_trans hst.draws htu.draws
  key := htu.key.trans hst.key
  ir := htu.ir.trans hst.ir
  latch := by
    obtain ⟨hflt, hcause, hval, hpc⟩ := hst.latch
    obtain ⟨kflt, kcause, kval, kpc⟩ := htu.latch
    exact ⟨kflt.trans hflt, kcause.trans hcause, kval.trans hval, kpc.trans hpc⟩

theorem State.setPc_frame (s : State) (w : Word) : Frame { pc := true } s (s.setPc w) :=
  { Frame.refl {} s with pc := nofun }

theorem State.skipIf_frame (c : Bool) (s : State) : Frame { pc := true } s (State.skipIf c s) := by
  rw [State.skipIf_eq]
  exact State.setPc_frame ..

theorem State.setFb_frame (s : State) (f : Display) : Frame { fb := true } s (s.setFb f) :=
  { Frame.refl {} s with fb := nofun }

theorem State.countDraw_frame (s : State) : Frame { draws := true } s s.countDraw :=
  { Frame.refl {} s with draws := nofun }

theorem State.popAndJump_frame (s : State) (h : 1 ≤ s.sp.toNat ∧ s.sp.toNat ≤ 16) :
    Frame { sp := true, pc := true } s (s.popAndJump h) :=
  { Frame.refl {} s with
    pc := nofun
    sp := nofun }

/-- A call writes the stack entry at `SP` alone. -/
theorem State.pushAndJump_frame (s : State) (h : s.sp.toNat < 16) (w : Word) :
    Frame { stackEntries := [⟨s.sp.toNat, h⟩], sp := true, pc := true } s (s.pushAndJump h w) :=
  { Frame.refl {} s with
    pc := nofun
    sp := nofun
    stack := fun k hk => by
      have hne : s.sp.toNat ≠ k.val := fun e => hk (List.mem_singleton.mpr (Fin.ext e.symm))
      simp [hne] }

/-- A write leaves every other address alone, whatever the form of the memory. -/
theorem Memory.read_write_other (m : Memory) {a b : Nat} (u : Byte) (h : b ≠ a) :
    (m.write a u).read b = m.read b := by
  induction m with
  | nil => simp only [Memory.write]; split <;> simp [Memory.read, h]
  | cons c rest ih =>
    obtain ⟨d, w⟩ := c
    simp only [Memory.write]
    split
    next => split <;> simp [Memory.read, h]
    next =>
      split
      next hd => subst hd; split <;> simp [Memory.read, h]
      next => simp [Memory.read, ih]

/-- A block store leaves every address outside its block alone. -/
theorem Memory.read_writeBytes_outside (m : Memory) {a b : Nat} (us : List Byte) (h : b < a ∨ a + us.length ≤ b) :
    (m.writeBytes a us).read b = m.read b := by
  induction us generalizing m a with
  | nil => rfl
  | cons u us ih =>
    rw [List.length_cons] at h
    rw [Memory.writeBytes, ih _ (by omega), Memory.read_write_other m u (by omega)]

/-- A block store at `a` touches the addresses of its block alone. -/
theorem State.setMem_writeBytes_frame (s : State) (a : Nat) (us : List Byte) :
    Frame { bytes := (List.range us.length).map (fun k => a + k) } s (s.setMem (s.mem.writeBytes a us)) :=
  { Frame.refl {} s with
    bytes := fun b hb => by
      rw [State.readByte_setMem, State.readByte_def]
      refine Memory.read_writeBytes_outside s.mem us ?_
      by_contra hin
      exact hb (List.mem_map.mpr ⟨b - a, List.mem_range.mpr (by omega), by omega⟩) }

/-- A block load touches the registers below its length alone. -/
theorem State.setRegs_loadAscending_frame (s : State) (a : Nat) (x : Reg) :
    Frame { regs := (List.finRange 16).filter (fun r => decide (r ≤ x)) } s
      (s.setRegs (loadAscending s.mem a (x.val + 1) s.v)) :=
  { Frame.refl {} s with
    regs := fun r hr => by
      have hout : ¬ r.val < x.val + 1 := fun h =>
        hr (List.mem_filter.mpr ⟨List.mem_finRange r, decide_eq_true (Nat.lt_succ_iff.mp h)⟩)
      rw [State.reg_setRegs, loadAscending_getElem, if_neg hout, State.reg_def] }

end Sys2Proof.Machine

namespace Sys2Proof.Machine

/-! ### What each instruction answers (`40_step_driver.md` R123): one equation per outcome -/

theorem exec_cls (s : State) : exec .cls s = .next (s.setFb blankDisplay) := rfl

theorem exec_jp (nnn : BitVec 12) (s : State) : exec (.jp nnn) s = .next (s.setPc (zextAddr nnn)) := rfl

theorem exec_seImm (x : Reg) (kk : BitVec 8) (s : State) :
    exec (.seImm x kk) s = .next (s.skipIf (s.reg x == kk)) := rfl

theorem exec_sneImm (x : Reg) (kk : BitVec 8) (s : State) :
    exec (.sneImm x kk) s = .next (s.skipIf (s.reg x != kk)) := rfl

theorem exec_seReg (x y : Reg) (s : State) : exec (.seReg x y) s = .next (s.skipIf (s.reg x == s.reg y)) := rfl

theorem exec_sneReg (x y : Reg) (s : State) : exec (.sneReg x y) s = .next (s.skipIf (s.reg x != s.reg y)) := rfl

theorem exec_addReg (x y : Reg) (s : State) : exec (.addReg x y) s =
    .next ((s.setReg 0xF (carryFlag (s.reg x) (s.reg y))).setReg x (addBytes (s.reg x) (s.reg y))) := rfl

theorem exec_subReg (x y : Reg) (s : State) : exec (.subReg x y) s =
    .next ((s.setReg 0xF (greaterFlag (s.reg x) (s.reg y))).subInto x x y) := rfl

theorem exec_shr (x y : Reg) (s : State) :
    exec (.shr x y) s = .next ((s.setReg 0xF (lowBitFlag (s.reg x))).shiftRight x) := rfl

theorem exec_subn (x y : Reg) (s : State) : exec (.subn x y) s =
    .next ((s.setReg 0xF (greaterFlag (s.reg y) (s.reg x))).subInto x y x) := rfl

theorem exec_shl (x y : Reg) (s : State) :
    exec (.shl x y) s = .next ((s.setReg 0xF (highBitFlag (s.reg x))).shiftLeft x) := rfl

theorem exec_jpV0 (nnn : BitVec 12) (s : State) :
    exec (.jpV0 nnn) s = .next (s.setPc (zextByte (s.reg 0) + zextAddr nnn)) := rfl

theorem exec_rnd (x : Reg) (kk : BitVec 8) (s : State) :
    exec (.rnd x kk) s = .next (s.countDraw.setReg x (s.randomNow &&& kk)) := rfl

theorem exec_ldVxDt (x : Reg) (s : State) : exec (.ldVxDt x) s = .next (s.setReg x s.dt) := rfl

theorem exec_addI (x : Reg) (s : State) : exec (.addI x) s = .next (s.setI (s.i + zextByte (s.reg x))) := rfl

theorem exec_nop (sel : NopSelector) (s : State) : exec (.nop sel) s = .next s := rfl

section
variable {s : State}

theorem exec_ret (h : 1 ≤ s.sp.toNat ∧ s.sp.toNat ≤ 16) : exec .ret s = .next (s.popAndJump h) := dif_pos h

theorem exec_ret_fault (h : ¬ (1 ≤ s.sp.toNat ∧ s.sp.toNat ≤ 16)) :
    exec .ret s = .next (raiseHere .stackUnderflow s.sp.toNat s) := dif_neg h

theorem exec_call (nnn : BitVec 12) (h : s.sp.toNat < 16) :
    exec (.call nnn) s = .next (s.pushAndJump h (zextAddr nnn)) := dif_pos h

theorem exec_call_fault (nnn : BitVec 12) (h : ¬ s.sp.toNat < 16) :
    exec (.call nnn) s = .next (raiseHere .stackOverflow s.sp.toNat s) := dif_neg h

theorem exec_drw (x y : Reg) {n : BitVec 4} (h : n.toNat = 0 ∨ s.i.toNat + n.toNat - 1 ≤ 4095) :
    exec (.drw x y n) s = .next (s.drawAndFlag x y n.toNat) :=
  if_pos ((s.blockFits_iff _).mpr (by omega))

theorem exec_drw_fault (x y : Reg) {n : BitVec 4} (h : ¬ (n.toNat = 0 ∨ s.i.toNat + n.toNat - 1 ≤ 4095)) :
    exec (.drw x y n) s = .next (raiseHere .memOob s.i.toNat s) :=
  if_neg ((s.blockFits_iff _).not.mpr (by omega))

theorem exec_skp {x : Reg} (h : (s.reg x).toNat < 16) :
    exec (.skp x) s = .next (s.skipIf s.key[(s.reg x).toNat]) := dif_pos h

theorem exec_skp_fault {x : Reg} (h : ¬ (s.reg x).toNat < 16) :
    exec (.skp x) s = .next (raiseHere .keyOob (s.reg x).toNat s) := dif_neg h

theorem exec_sknp {x : Reg} (h : (s.reg x).toNat < 16) :
    exec (.sknp x) s = .next (s.skipIf (!s.key[(s.reg x).toNat])) := dif_pos h

theorem exec_sknp_fault {x : Reg} (h : ¬ (s.reg x).toNat < 16) :
    exec (.sknp x) s = .next (raiseHere .keyOob (s.reg x).toNat s) := dif_neg h

theorem exec_ldVxK_pressed (x : Reg) {k : Fin 16} (h : s.lowestKey = some k) :
    exec (.ldVxK x) s = .next (s.setReg x (keyByte k)) := by simp only [exec, execLdVxK, h]

theorem exec_ldVxK_waits (x : Reg) (h : s.lowestKey = none) :
    exec (.ldVxK x) s = .next (s.setPc (s.pc - 2)) := by simp only [exec, execLdVxK, h]

theorem exec_ldB (x : Reg) (h : s.i.toNat + 2 ≤ 4095) : exec (.ldB x) s =
    .next (s.setMem (s.mem.writeBytes s.i.toNat (decimalDigits (s.reg x)))) :=
  if_pos ((s.blockFits_iff 3).mpr (.inr h))

theorem exec_ldB_fault (x : Reg) (h : ¬ s.i.toNat + 2 ≤ 4095) :
    exec (.ldB x) s = .next (raiseHere .memOob s.i.toNat s) :=
  if_neg ((s.blockFits_iff 3).not.mpr (by omega))

theorem exec_storeRegs {x : Reg} (h : s.i.toNat + x.val ≤ 4095) : exec (.storeRegs x) s =
    .next (s.setMem (s.mem.writeBytes s.i.toNat (s.regsUpTo x))) :=
  if_pos ((s.blockFits_iff _).mpr (.inr h))

theorem exec_storeRegs_fault {x : Reg} (h : ¬ s.i.toNat + x.val ≤ 4095) :
    exec (.storeRegs x) s = .next (raiseHere .memOob s.i.toNat s) :=
  if_neg ((s.blockFits_iff _).not.mpr (by omega))

theorem exec_loadRegs {x : Reg} (h : s.i.toNat + x.val ≤ 4095) : exec (.loadRegs x) s =
    .next (s.setRegs (loadAscending s.mem s.i.toNat (x.val + 1) s.v)) :=
  if_pos ((s.blockFits_iff _).mpr (.inr h))

theorem exec_loadRegs_fault {x : Reg} (h : ¬ s.i.toNat + x.val ≤ 4095) :
    exec (.loadRegs x) s = .next (raiseHere .memOob s.i.toNat s) :=
  if_neg ((s.blockFits_iff _).not.mpr (by omega))

end

/-! ### The effect of every instruction: a tabled fault, or a change inside the instruction's frame -/

/-- What an instruction that does not fault may change. -/
def touches (s : State) : Instr → Touches
  | .cls => { fb := true }
  | .ret => { sp := true, pc := true }
  | .call _ => { stackEntries := if h : s.sp.toNat < 16 then [⟨s.sp.toNat, h⟩] else [], sp := true, pc := true }
  | .jp _ | .jpV0 _ | .seImm _ _ | .sneImm _ _ | .seReg _ _ | .sneReg _ _ | .skp _ | .sknp _ => { pc := true }
  | .ldI _ | .addI _ | .ldF _ => { i := true }
  | .drw _ _ _ => { regs := [0xF], fb := true }
  | .rnd x _ => { regs := [x], draws := true }
  | .ldVxK x => { regs := [x], pc := true }
  | .ldDtVx _ => { dt := true }
  | .ldStVx _ => { st := true }
  | .ldB _ => { bytes := (List.range 3).map (fun k => s.i.toNat + k) }
  | .storeRegs x => { bytes := (List.range (x.val + 1)).map (fun k => s.i.toNat + k) }
  | i => { regs := writesRegs i }

theorem touches_call {s : State} (nnn : BitVec 12) (h : s.sp.toNat < 16) :
    touches s (.call nnn) = { stackEntries := [⟨s.sp.toNat, h⟩], sp := true, pc := true } := by
  simp only [touches, h, dif_pos]

theorem touches_regs (s : State) (i : Instr) : (touches s i).regs = writesRegs i := by
  cases i <;> rfl

/-- A flag write and then a register write: the frame of `8xy4` to `8xyE`. -/
theorem State.setFlag_setReg_frame (s : State) (x : Reg) (f b : Byte) :
    Frame { regs := [x, 0xF] } s ((s.setReg 0xF f).setReg x b) :=
  (s.setReg_frame 0xF f).trans ((s.setReg 0xF f).setReg_frame x b)

theorem State.drawAndFlag_frame (s : State) (x y : Reg) (n : Nat) :
    Frame { regs := [0xF], fb := true } s (s.drawAndFlag x y n) :=
  (s.setFb_frame _).trans (State.setReg_frame _ 0xF _)

theorem State.storeRegs_frame (s : State) (x : Reg) :
    Frame { bytes := (List.range (x.val + 1)).map (fun k => s.i.toNat + k) } s
      (s.setMem (s.mem.writeBytes s.i.toNat (s.regsUpTo x))) := by
  rw [← s.regsUpTo_length x]
  exact s.setMem_writeBytes_frame _ _

theorem State.countDraw_setReg_frame (s : State) (x : Reg) (b : Byte) :
    Frame { regs := [x], draws := true } s (s.countDraw.setReg x b) :=
  s.countDraw_frame.trans (State.setReg_frame _ x b)

/-- Every instruction answers a next state: where the table of causes has an entry, the fault of that entry; everywhere
else a state that differs only in what the instruction touches (`60_exceptions.md` R252 to R258). -/
theorem exec_effect (i : Instr) (s : State) :
    (∃ (c : Fault) (n : Nat), faultTable s i = some (c.code, n) ∧ exec i s = .next (raiseHere c n s)) ∨
    (faultTable s i = none ∧ ∃ t, exec i s = .next t ∧ Frame (touches s i) s t) := by
  cases i with
  -- the instructions with a check
  | ret =>
    by_cases h : 1 ≤ s.sp.toNat ∧ s.sp.toNat ≤ 16
    · exact .inr ⟨if_neg (by omega), _, exec_ret h, s.popAndJump_frame h⟩
    · exact .inl ⟨.stackUnderflow, _, if_pos (by omega), exec_ret_fault h⟩
  | call nnn =>
    by_cases h : s.sp.toNat < 16
    · exact .inr ⟨if_neg (by omega), _, exec_call nnn h, touches_call nnn h ▸ s.pushAndJump_frame h _⟩
    · exact .inl ⟨.stackOverflow, _, if_pos (by omega), exec_call_fault nnn h⟩
  | drw x y n =>
    by_cases h : n.toNat = 0 ∨ s.i.toNat + n.toNat - 1 ≤ 4095
    · exact .inr ⟨if_neg (by omega), _, exec_drw x y h, s.drawAndFlag_frame x y _⟩
    · exact .inl ⟨.memOob, _, if_pos (by omega), exec_drw_fault x y h⟩
  | skp x =>
    by_cases h : (s.reg x).toNat < 16
    · exact .inr ⟨if_neg (by omega), _, exec_skp h, s.skipIf_frame _⟩
    · exact .inl ⟨.keyOob, _, if_pos (by omega), exec_skp_fault h⟩
  | sknp x =>
    by_cases h : (s.reg x).toNat < 16
    · exact .inr ⟨if_neg (by omega), _, exec_sknp h, s.skipIf_frame _⟩
    · exact .inl ⟨.keyOob, _, if_pos (by omega), exec_sknp_fault h⟩
  | ldB x =>
    by_cases h : s.i.toNat + 2 ≤ 4095
    · exact .inr ⟨if_neg (by omega), _, exec_ldB x h, s.setMem_writeBytes_frame _ (decimalDigits (s.reg x))⟩
    · exact .inl ⟨.memOob, _, if_pos (by omega), exec_ldB_fault x h⟩
  | storeRegs x =>
    by_cases h : s.i.toNat + x.val ≤ 4095
    · exact .inr ⟨if_neg (by omega), _, exec_storeRegs h, s.storeRegs_frame x⟩
    · exact .inl ⟨.memOob, _, if_pos (by omega), exec_storeRegs_fault h⟩
  | loadRegs x =>
    by_cases h : s.i.toNat + x.val ≤ 4095
    · exact .inr ⟨if_neg (by omega), _, exec_loadRegs h, s.setRegs_loadAscending_frame _ x⟩
    · exact .inl ⟨.memOob, _, if_pos (by omega), exec_loadRegs_fault h⟩
  -- the key wait: a register write or a rewind
  | ldVxK x =>
    refine .inr ⟨rfl, ?_⟩
    cases h : s.lowestKey with
    | some k => exact ⟨_, exec_ldVxK_pressed x h, (Frame.refl { pc := true } s).trans (s.setReg_frame x _)⟩
    | none => exact ⟨_, exec_ldVxK_waits x h, (s.setPc_frame _).trans (Frame.refl { regs := [x] } _)⟩
  -- the instructions with one outcome, by what they write
  | cls => exact .inr ⟨rfl, _, exec_cls s, s.setFb_frame _⟩
  | nop sel => exact .inr ⟨rfl, _, exec_nop sel s, Frame.refl _ s⟩
  | jp | jpV0 => exact .inr ⟨rfl, _, rfl, s.setPc_frame _⟩
  | seImm | sneImm | seReg | sneReg => exact .inr ⟨rfl, _, rfl, s.skipIf_frame _⟩
  | ldI | addI | ldF => exact .inr ⟨rfl, _, rfl, s.setI_frame _⟩
  | ldDtVx => exact .inr ⟨rfl, _, rfl, s.setDt_frame _⟩
  | ldStVx => exact .inr ⟨rfl, _, rfl, s.setSt_frame _⟩
  | ldImm | addImm | ldReg | orReg | andReg | xorReg | ldVxDt => exact .inr ⟨rfl, _, rfl, s.setReg_frame _ _⟩
  | addReg | subReg | shr | subn | shl => exact .inr ⟨rfl, _, rfl, s.setFlag_setReg_frame _ _ _⟩
  | rnd x kk => exact .inr ⟨rfl, _, exec_rnd x kk s, s.countDraw_setReg_frame x _⟩
end Sys2Proof.Machine

namespace Sys2Proof.Machine

/-- Everything an instruction can do: take the fault the table names, or stay inside its frame. -/
theorem exec_cases {i : Instr} {s t : State} (h : exec i s = .next t) :
    (∃ (c : Fault) (n : Nat), faultTable s i = some (c.code, n) ∧ t = raiseHere c n s) ∨
    (faultTable s i = none ∧ Frame (touches s i) s t) := by
  obtain ⟨c, n, hsome, hu⟩ | ⟨hnone, u, hu, hframe⟩ := exec_effect i s
  · rw [h] at hu
    cases hu
    exact .inl ⟨c, n, hsome, rfl⟩
  · rw [h] at hu
    cases hu
    exact .inr ⟨hnone, hframe⟩

theorem exec_answers_next (i : Instr) (s : State) : ∃ t, exec i s = .next t := by
  obtain ⟨c, n, -, ht⟩ | ⟨-, t, ht, -⟩ := exec_effect i s <;> exact ⟨_, ht⟩

/-- Settles O2: every instruction has an effect, and the step's other two arms answer a next state outright. -/
theorem execAndStepAnswerNextState : Obligations.ExecAndStepAnswerNextState := by
  refine ⟨exec_answers_next, fun s => ?_⟩
  cases hflt : s.flt with
  | true => exact ⟨_, step_halted s hflt⟩
  | false =>
    cases hfetch : s.fetchOutOfRange with
    | true => exact ⟨_, step_fetchOob s hflt hfetch⟩
    | false =>
      obtain ⟨t, ht⟩ := exec_answers_next (decodeWord s.fetchWord) s.fetched
      exact ⟨_, step_exec s hflt hfetch ht⟩

theorem raiseHere_faulted (c : Fault) (n : Nat) (s : State) :
    Faulted c.code (BitVec.ofNat 16 n) s (raiseHere c n s) := by
  have hval : BitVec.ofNat 16 (n % 65536) = BitVec.ofNat 16 n := by
    apply BitVec.eq_of_toNat_eq
    simp
  rw [Faulted, raiseHere_eq, hval]

/-- Settles O6: the effect of an instruction is the fault of its table entry, or is inside a frame that leaves the latch
alone. -/
theorem instructionsFaultExactlyAsTabled : Obligations.InstructionsFaultExactlyAsTabled := by
  intro i s
  obtain ⟨c, n, hsome, ht⟩ | ⟨hnone, t, ht, hframe⟩ := exec_effect i s
  · refine ⟨fun code val htab => ?_, fun htab => ?_⟩
    · obtain ⟨rfl, rfl⟩ : c.code = code ∧ n = val := by simpa [hsome] using htab
      exact ⟨_, ht, raiseHere_faulted c n s⟩
    · simp [hsome] at htab
  · refine ⟨fun code val htab => ?_, fun _ => ⟨t, ht, hframe.latch⟩⟩
    simp [hnone] at htab

/-! ### What each piece of state is written by (`10_state.md` R22 to R34, `20_memory.md` R70) -/

/-- Settles O9: a fault writes no byte, and no other frame than that of `Fx33` and `Fx55` lists one. -/
theorem memoryChangesOnlyByDigitsAndStore : Obligations.MemoryChangesOnlyByDigitsAndStore := by
  intro i s t h hldB hstore a
  obtain ⟨c, n, -, rfl⟩ | ⟨-, hframe⟩ := exec_cases h
  · rfl
  · have hbytes : (touches s i).bytes = [] := by
      cases i with
      | ldB x => exact absurd rfl (hldB x)
      | storeRegs x => exact absurd rfl (hstore x)
      | _ => rfl
    exact hframe.bytes a (by simp [hbytes])

/-- Settles O10: a fault writes no register, and the frame of an instruction lists the registers it writes. -/
theorem registersChangeOnlyWhereWritten : Obligations.RegistersChangeOnlyWhereWritten := by
  intro i s t h r hr
  obtain ⟨c, n, -, rfl⟩ | ⟨-, hframe⟩ := exec_cases h
  · rfl
  · exact hframe.regs r (touches_regs s i ▸ hr)

/-- Settles O11: a fault leaves the stack and `SP` alone, and only the frames of `2nnn` and `00EE` name them. -/
theorem stackChangesOnlyByCallAndReturn : Obligations.StackChangesOnlyByCallAndReturn := by
  intro i s t h
  obtain ⟨c, n, -, rfl⟩ | ⟨-, hframe⟩ := exec_cases h
  · exact ⟨fun _ _ => rfl, fun _ => rfl, fun _ _ => rfl⟩
  · refine ⟨fun k hk => hframe.stack k ?_, fun hcall => ?_, fun hcall hret => hframe.sp ?_⟩
    · cases i with
      | call nnn =>
        by_cases hsp : s.sp.toNat < 16
        · rw [touches_call nnn hsp]
          exact fun hmem => hk (congrArg Fin.val (List.mem_singleton.mp hmem))
        · simp [touches, hsp]
      | _ => exact List.not_mem_nil
    · have hnone : (touches s i).stackEntries = [] := by
        cases i with
        | call nnn => exact absurd rfl (hcall nnn)
        | _ => rfl
      exact Vector.ext fun k hk => hframe.stack ⟨k, hk⟩ (by simp [hnone])
    · cases i with
      | call nnn => exact absurd rfl (hcall nnn)
      | ret => exact absurd rfl hret
      | _ => rfl

/-- Settles O12: a fault leaves `I` alone, and only the frames of `Annn`, `Fx1E` and `Fx29` name it. -/
theorem indexChangesOnlyByItsThreeWriters : Obligations.IndexChangesOnlyByItsThreeWriters := by
  intro i s t h hldI haddI hldF
  obtain ⟨c, n, -, rfl⟩ | ⟨-, hframe⟩ := exec_cases h
  · rfl
  · refine hframe.i ?_
    cases i with
    | ldI nnn => exact absurd rfl (hldI nnn)
    | addI x => exact absurd rfl (haddI x)
    | ldF x => exact absurd rfl (hldF x)
    | _ => rfl

/-- Settles O13: what every instruction leaves in the timers, before any tick. -/
theorem timersChangeOnlyByTheirWriters : Obligations.TimersChangeOnlyByTheirWriters :=
  fun _ _ _ h => exec_keeps_timers h

/-- Settles O14: a fault leaves the display alone, and only the frames of `00E0` and `Dxyn` name it. -/
theorem displayChangesOnlyByClearAndDraw : Obligations.DisplayChangesOnlyByClearAndDraw := by
  intro i s t h hcls hdrw r c
  obtain ⟨_, n, -, rfl⟩ | ⟨-, hframe⟩ := exec_cases h
  · rfl
  · have hfb : t.fb = s.fb := by
      refine hframe.fb ?_
      cases i with
      | cls => exact absurd rfl hcls
      | drw x y n => exact absurd rfl (hdrw x y n)
      | _ => rfl
    rw [State.cell_def, hfb, State.cell_def]

/-! ### The step: halted, faulted or committed (`40_step_driver.md` R120, `60_exceptions.md` R252) -/

/-- An instruction's fault, taken to the end of the step: the latch on the state the step began in. -/
theorem State.commit_raiseHere (s : State) (c : Fault) (n : Nat) :
    s.commit (raiseHere c n s.fetched) = raiseFault c n s.pc s := by
  have hpc : s.fetched.pc - 2 = s.pc := BitVec.add_sub_cancel ..
  rw [raiseHere, hpc, State.commit_faulted s _ (raiseFault_flt ..)]
  rfl

/-- Everything a step can do, with the instruction's own two outcomes told apart: nothing on a halted core, a fault at the
address where `PC` stands, or an instruction's effect inside its frame and then the tick. -/
theorem step_outcomes {s t : State} (h : step s = .next t) :
    (s.flt = true ∧ t = s) ∨
    (s.flt = false ∧ ∃ (c : Fault) (n : Nat), t = raiseFault c n s.pc s) ∨
    (s.flt = false ∧ s.pc.toNat ≤ 0x0FFE ∧ faultTable s.fetched (decodeWord s.fetchWord) = none ∧
      ∃ u, exec (decodeWord s.fetchWord) s.fetched = .next u ∧
        Frame (touches s.fetched (decodeWord s.fetchWord)) s.fetched u ∧ t = u.tick) := by
  obtain hhalted | ⟨hs, -, rfl⟩ | ⟨hs, hfetch, u, hu, rfl⟩ := step_cases h
  · exact .inl hhalted
  · exact .inr (.inl ⟨hs, _, _, rfl⟩)
  · obtain ⟨c, n, -, rfl⟩ | ⟨hnone, hframe⟩ := exec_cases hu
    · exact .inr (.inl ⟨hs, c, n, s.commit_raiseHere c n⟩)
    · have hflt : u.flt = false := hframe.latch.1.trans hs
      exact .inr (.inr ⟨hs, s.fetchInRange_iff.mp hfetch, hnone, u, hu, hframe, s.commit_running u hflt⟩)

theorem Fault.code_bounds (c : Fault) : 1 ≤ c.code.toNat ∧ c.code.toNat ≤ 5 := by
  cases c <;> decide

/-- Settles O5: of the three things a step can do, the fault alone sets the latch of a running core. -/
theorem faultingStepKeepsOnlyTheLatch : Obligations.FaultingStepKeepsOnlyTheLatch := by
  intro s t hs h ht
  obtain ⟨hhalted, -⟩ | ⟨-, c, n, rfl⟩ | ⟨-, -, -, u, -, hframe, rfl⟩ := step_outcomes h
  · simp [hs] at hhalted
  · exact ⟨rfl, c.code_bounds⟩
  · obtain ⟨hflt, -, -, -⟩ := hframe.latch
    simp [hflt, hs] at ht

/-- Settles O8: a fault is taken on the state before the fetch, and a committed step keeps the `IR` and the keypad the fetch
left, since no frame names them. -/
theorem stepFetchesBigEndianAndKeepsKeys : Obligations.StepFetchesBigEndianAndKeepsKeys := by
  intro s t hs h
  obtain ⟨hhalted, -⟩ | ⟨-, c, n, rfl⟩ | ⟨-, -, -, u, -, hframe, rfl⟩ := step_outcomes h
  · simp [hs] at hhalted
  · exact ⟨rfl, fun _ => rfl, nofun⟩
  · obtain ⟨hflt, -, -, -⟩ := hframe.latch
    refine ⟨hframe.key, fun ht => ?_, fun _ => ?_⟩
    · simp [hflt, hs] at ht
    · rw [State.tick_ir, hframe.ir, State.fetched_ir, State.fetchWord, wordOfBytes_toNat]
end Sys2Proof.Machine

namespace Sys2Proof.Machine

/-! ### The invariant (`10_state.md` R24, R26, R36, `42_flow_skip_imm.md` R151, `44_family_9_to_D.md` R192) -/

/-- `Fx33` and `Fx55` alone replace the memory. -/
theorem exec_keeps_mem {i : Instr} {s t : State} (h : exec i s = .next t) (hldB : ∀ x, i ≠ .ldB x)
    (hstore : ∀ x, i ≠ .storeRegs x) : t.mem = s.mem := by
  cases i with
  | ldB x => exact absurd rfl (hldB x)
  | storeRegs x => exact absurd rfl (hstore x)
  -- the skips
  | seImm | sneImm | seReg | sneReg =>
    cases h
    rw [State.skipIf_eq, State.setPc_mem]
  | skp | sknp =>
    simp only [exec, execSkp, execSknp] at h
    split at h <;> cases h
    · rw [State.skipIf_eq, State.setPc_mem]
    · rfl
  -- the other arms with two outcomes
  | ret | call | drw | ldVxK | loadRegs =>
    simp only [exec, execRet, execCall, execDrw, execLdVxK, execLoadRegs] at h
    split at h <;> cases h <;> rfl
  -- the arms with one outcome
  | cls | jp | ldImm | addImm | ldReg | orReg | andReg | xorReg | addReg | subReg | shr | subn | shl | ldI | jpV0 | rnd
  | ldVxDt | ldDtVx | ldStVx | addI | ldF | nop =>
    cases h
    rfl

/-- Every instruction keeps memory canonical: a block that passes its check lies inside memory. -/
theorem exec_keeps_mem_wf {i : Instr} {s t : State} (hwf : s.mem.wf = true) (h : exec i s = .next t) :
    t.mem.wf = true := by
  cases i with
  | ldB x =>
    by_cases hfits : s.i.toNat + 2 ≤ 4095
    · rw [exec_ldB x hfits] at h
      cases h
      exact Memory.writeBytes_wf hwf (by rw [decimalDigits_length, Config.memSize]; omega)
    · rw [exec_ldB_fault x hfits] at h
      cases h
      exact hwf
  | storeRegs x =>
    by_cases hfits : s.i.toNat + x.val ≤ 4095
    · rw [exec_storeRegs hfits] at h
      cases h
      exact Memory.writeBytes_wf hwf (by rw [State.regsUpTo_length, Config.memSize]; omega)
    · rw [exec_storeRegs_fault hfits] at h
      cases h
      exact hwf
  | _ => rwa [exec_keeps_mem h nofun nofun]

theorem zextAddr_le (nnn : BitVec 12) : (zextAddr nnn).toNat ≤ 0x0FFF := by
  rw [zextAddr_toNat]
  exact Nat.le_of_lt_succ nnn.isLt

theorem zextByte_toNat (b : Byte) : (zextByte b).toNat = b.toNat :=
  BitVec.toNat_setWidth_of_le (by decide)

/-- A skip from an advanced `PC` of at most 0x1000. -/
theorem State.skipIf_pc_le {s : State} (c : Bool) (hpc : s.pc.toNat ≤ 0x1000) : (s.skipIf c).pc.toNat ≤ 0x10FE := by
  rw [State.skipIf_eq, State.setPc_pc]
  split <;> bv_omega

section
variable {i : Instr} {s t : State}

/-- Where `PC` stands after an instruction that does not fault: the highest target is that of `Bnnn`, 0xFFF + 0xFF. -/
theorem exec_pc_le (hlow : 2 ≤ s.pc.toNat) (hpc : s.pc.toNat ≤ 0x1000)
    (hstack : ∀ k : Fin 16, s.stack[k].toNat ≤ 0x1000) (hnone : faultTable s i = none) (h : exec i s = .next t)
    (hframe : Frame (touches s i) s t) : t.pc.toNat ≤ 0x10FE := by
  cases i with
  | jp nnn =>
    cases h
    exact (zextAddr_le nnn).trans (by decide)
  | call nnn =>
    have hsp : s.sp.toNat < 16 := by simpa [faultTable] using hnone
    rw [exec_call nnn hsp] at h
    cases h
    exact (zextAddr_le nnn).trans (by decide)
  | ret =>
    have hsp : 1 ≤ s.sp.toNat ∧ s.sp.toNat ≤ 16 := by simpa [faultTable, Nat.one_le_iff_ne_zero] using hnone
    rw [exec_ret hsp] at h
    cases h
    exact (hstack ⟨s.sp.toNat - 1, by omega⟩).trans (by decide)
  | jpV0 nnn =>
    cases h
    have hnnn := zextAddr_le nnn
    have hv0 : (zextByte (s.reg 0)).toNat < 256 := zextByte_toNat (s.reg 0) ▸ (s.reg 0).isLt
    rw [State.setPc_pc, BitVec.toNat_add]
    omega
  | seImm | sneImm | seReg | sneReg =>
    cases h
    exact State.skipIf_pc_le _ hpc
  | skp x =>
    have hkey : (s.reg x).toNat < 16 := by simpa [faultTable, Nat.lt_succ_iff] using hnone
    rw [exec_skp hkey] at h
    cases h
    exact State.skipIf_pc_le _ hpc
  | sknp x =>
    have hkey : (s.reg x).toNat < 16 := by simpa [faultTable, Nat.lt_succ_iff] using hnone
    rw [exec_sknp hkey] at h
    cases h
    exact State.skipIf_pc_le _ hpc
  | ldVxK x =>
    cases hkey : s.lowestKey with
    | some k =>
      rw [exec_ldVxK_pressed x hkey] at h
      cases h
      exact hpc.trans (by decide)
    | none =>
      rw [exec_ldVxK_waits x hkey] at h
      cases h
      rw [State.setPc_pc]
      bv_omega
  | _ =>
    rw [hframe.pc rfl]
    exact hpc.trans (by decide)

/-- A call counts `SP` up from below 16, a return counts it down from above 0, and nothing else moves it. -/
theorem exec_sp_le (hsp : s.sp.toNat ≤ 16) (hnone : faultTable s i = none) (h : exec i s = .next t)
    (hframe : Frame (touches s i) s t) : t.sp.toNat ≤ 16 := by
  cases i with
  | call nnn =>
    have hlt : s.sp.toNat < 16 := by simpa [faultTable] using hnone
    rw [exec_call nnn hlt] at h
    cases h
    rw [State.pushAndJump_sp]
    bv_omega
  | ret =>
    have hpos : 1 ≤ s.sp.toNat ∧ s.sp.toNat ≤ 16 := by simpa [faultTable, Nat.one_le_iff_ne_zero] using hnone
    rw [exec_ret hpos] at h
    cases h
    rw [State.popAndJump_sp]
    bv_omega
  | _ => rwa [hframe.sp rfl]

/-- A call pushes the advanced `PC`, and no other instruction writes a stack entry. -/
theorem exec_stack_le (hpc : s.pc.toNat ≤ 0x1000) (hstack : ∀ k : Fin 16, s.stack[k].toNat ≤ 0x1000)
    (hnone : faultTable s i = none) (h : exec i s = .next t) (hframe : Frame (touches s i) s t) (k : Fin 16) :
    t.stack[k].toNat ≤ 0x1000 := by
  cases i with
  | call nnn =>
    have hlt : s.sp.toNat < 16 := by simpa [faultTable] using hnone
    rw [exec_call nnn hlt] at h
    cases h
    rw [State.pushAndJump_stack, Fin.getElem_fin, Vector.getElem_set]
    split
    · exact hpc
    · exact hstack k
  | _ =>
    rw [hframe.stack k List.not_mem_nil]
    exact hstack k

end

/-- A fault keeps the invariant: it writes nothing but the latch, coherently. -/
theorem State.Inv.raiseFault {s : State} (hs : s.Inv) (c : Fault) (n : Nat) : (raiseFault c n s.pc s).Inv where
  memory := hs.memory
  sp := hs.sp
  stack := hs.stack
  pc := hs.pc
  latch := by
    obtain ⟨hlow, hhigh⟩ := c.code_bounds
    exact ⟨nofun, fun _ => ⟨hlow, hhigh, rfl⟩⟩

/-- A frame leaves the latch of a running core coherent. -/
theorem Frame.latchOk {m : Touches} {s t : State} (h : Frame m s t) (hrun : s.flt = false)
    (hzero : s.fcause = 0 ∧ s.fval = 0 ∧ s.fpc = 0) : t.LatchOk := by
  obtain ⟨hflt, hcause, hval, hpc⟩ := h.latch
  obtain ⟨hcause0, hval0, hpc0⟩ := hzero
  exact ⟨fun _ => ⟨hcause.trans hcause0, hval.trans hval0, hpc.trans hpc0⟩, fun ht => by simp [hflt, hrun] at ht⟩

/-- The tick writes nothing the invariant speaks of. -/
theorem State.Inv.tick {s : State} (hs : s.Inv) : s.tick.Inv := { hs with }

/-- Settles O16: a halted core stays as it is, a fault writes a coherent latch, and a committed instruction keeps every
bound, since the fetch's check leaves the advanced `PC` at most 0x1000. -/
theorem stepKeepsInvariant : Obligations.StepKeepsInvariant := by
  intro s t hs h
  obtain ⟨-, rfl⟩ | ⟨-, c, n, rfl⟩ | ⟨hrun, hfetch, hnone, u, hu, hframe, rfl⟩ := step_outcomes h
  · exact hs
  · exact hs.raiseFault c n
  · have hpc : 2 ≤ s.fetched.pc.toNat ∧ s.fetched.pc.toNat ≤ 0x1000 := by
      rw [State.fetched_pc]
      bv_omega
    obtain ⟨hlow, hhigh⟩ := hpc
    exact State.Inv.tick {
      memory := exec_keeps_mem_wf (s := s.fetched) hs.memory hu
      sp := exec_sp_le (s := s.fetched) hs.sp hnone hu hframe
      stack := exec_stack_le hhigh hs.stack hnone hu hframe
      pc := exec_pc_le hlow hhigh hs.stack hnone hu hframe
      latch := hframe.latchOk hrun (hs.latch.1 hrun) }

/-- Settles O15: every clause of the invariant at the reset values. -/
theorem resetMeetsInvariant : Obligations.ResetMeetsInvariant where
  memory := State.reset_mem_wf
  sp := by decide
  stack := by decide
  pc := by decide
  latch := ⟨fun _ => ⟨rfl, rfl, rfl⟩, nofun⟩

theorem State.loadProgram_fits (s : State) {bytes : List Byte} (h : bytes.length ≤ 3584) :
    s.loadProgram bytes = .next (s.setMem (s.mem.writeBytes 0x200 bytes)) := if_pos h

theorem State.loadProgram_tooLong (s : State) {bytes : List Byte} (h : 3584 < bytes.length) :
    s.loadProgram bytes = .refused (.programTooLong bytes.length) := if_neg (Nat.not_le.mpr h)

/-- A load that is not refused is a block store inside memory. -/
theorem State.loadProgram_keeps_inv {s t : State} {bytes : List Byte} (hs : s.Inv)
    (h : s.loadProgram bytes = .next t) : t.Inv := by
  by_cases hlen : bytes.length ≤ 3584
  · rw [s.loadProgram_fits hlen] at h
    cases h
    exact { hs with memory := Memory.writeBytes_wf hs.memory (by rw [Config.memSize]; omega) }
  · rw [s.loadProgram_tooLong (Nat.not_le.mp hlen)] at h
    cases h

/-- Settles O17: the step by `stepKeepsInvariant`, and the other events by what they write. -/
theorem eventsKeepInvariant : Obligations.EventsKeepInvariant := by
  intro s t e hs h
  cases e with
  | reset =>
    cases h
    exact { resetMeetsInvariant with }
  | loadProgram bytes => exact s.loadProgram_keeps_inv hs h
  | setKey k b =>
    cases h
    exact { hs with }
  | step => exact stepKeepsInvariant s t hs h

end Sys2Proof.Machine

namespace Sys2Proof

/-! ### Decoding: the words of every instruction, aliases included (`30_encoding.md` R94 to R100) -/

@[simp] theorem decodeWord_formatXyn_cls (x y : Reg) : decodeWord (formatXyn 0x0 x y 0x0) = .cls := by
  simp [decodeWord, decodeFamily0]

@[simp] theorem decodeWord_formatXyn_ret (x y : Reg) : decodeWord (formatXyn 0x0 x y 0xE) = .ret := by
  simp [decodeWord, decodeFamily0]

/-- `5xy?`: the low nibble is not examined. -/
@[simp] theorem decodeWord_formatXyn_seReg (x y : Reg) (n : BitVec 4) :
    decodeWord (formatXyn 0x5 x y n) = .seReg x y := by
  simp [decodeWord]

/-- `9xy?`: the low nibble is not examined. -/
@[simp] theorem decodeWord_formatXyn_sneReg (x y : Reg) (n : BitVec 4) :
    decodeWord (formatXyn 0x9 x y n) = .sneReg x y := by
  simp [decodeWord]

@[simp] theorem decodeWord_formatXyn_skp (x y : Reg) : decodeWord (formatXyn 0xE x y 0xE) = .skp x := by
  simp [decodeWord, decodeFamilyE]

@[simp] theorem decodeWord_formatXyn_sknp (x y : Reg) : decodeWord (formatXyn 0xE x y 0x1) = .sknp x := by
  simp [decodeWord, decodeFamilyE]

/-- A no-op's selector is one the decoder's tables leave out, so its word falls through to the no-op again. -/
theorem decodeWord_encode_nop {sel : NopSelector} (h : sel.unassigned = true) :
    decodeWord (encode (.nop sel)) = .nop sel := by
  cases sel with
  | low0 n | low8 n | lowE n =>
    revert n
    decide
  | lowF kk =>
    simp only [encode, decodeWord, fieldP_formatXkk, decodeFamilyF, fieldKk_formatXkk]
    split <;> simp_all [NopSelector.unassigned]

theorem decodeWord_encode {i : Instr} (h : i.wellFormed = true) : decodeWord (encode i) = i := by
  cases i with
  | nop sel => exact decodeWord_encode_nop h
  | cls | ret => rfl
  -- family 8, by its low nibble
  | ldReg | orReg | andReg | xorReg | addReg | subReg | shr | subn | shl =>
    simp [encode, decodeWord, decodeFamily8]
  -- family E, by its low nibble
  | skp | sknp => simp [encode, decodeWord, decodeFamilyE, fieldN_formatXkk]
  -- family F, by its low byte
  | ldVxDt | ldVxK | ldDtVx | ldStVx | addI | ldF | ldB | storeRegs | loadRegs =>
    simp [encode, decodeWord, decodeFamilyF]
  -- the families of one instruction
  | jp | call | seImm | sneImm | seReg | ldImm | addImm | sneReg | ldI | jpV0 | rnd | drw => simp [encode, decodeWord]

/-- Settles O52: the fields of a format word select the instruction they were taken from, and its two bytes are its word. -/
theorem decodeOfEncodeIsTheInstruction : Obligations.DecodeOfEncodeIsTheInstruction := by
  intro i h
  refine ⟨decodeWord_encode h, fun rest => ?_⟩
  rw [decodeBytes_encodeBytes, decodeWord_encode h]

theorem decodeFamily0_wellFormed (w : Word) : (decodeFamily0 w).wellFormed = true := by
  unfold decodeFamily0
  split <;> simp_all [Instr.wellFormed, NopSelector.unassigned]

theorem decodeFamily8_wellFormed (w : Word) : (decodeFamily8 w).wellFormed = true := by
  unfold decodeFamily8
  split
  case h_10 =>
    simp only [Instr.wellFormed, NopSelector.unassigned, Bool.and_eq_true, decide_eq_true_eq, bne_iff_ne, imp_false] at *
    bv_omega
  all_goals rfl

theorem decodeFamilyE_wellFormed (w : Word) : (decodeFamilyE w).wellFormed = true := by
  unfold decodeFamilyE
  split <;> simp_all [Instr.wellFormed, NopSelector.unassigned]

theorem decodeFamilyF_wellFormed (w : Word) : (decodeFamilyF w).wellFormed = true := by
  unfold decodeFamilyF
  split <;> simp_all [Instr.wellFormed, NopSelector.unassigned]

theorem decodeWord_wellFormed (w : Word) : (decodeWord w).wellFormed = true := by
  unfold decodeWord
  split
  case h_1 => exact decodeFamily0_wellFormed w
  case h_9 => exact decodeFamily8_wellFormed w
  case h_15 => exact decodeFamilyE_wellFormed w
  case h_16 => exact decodeFamilyF_wellFormed w
  all_goals rfl

/-- Settles O54: the decoder answers well-formed instructions only, and those survive the encoder. -/
theorem everyWordDecodesWellFormed : Obligations.EveryWordDecodesWellFormed :=
  fun w => ⟨decodeWord_wellFormed w, decodeWord_encode (decodeWord_wellFormed w)⟩

/-- Settles O55: each word's fields, read off its bits. -/
theorem handWrittenWordsDecode : Obligations.HandWrittenWordsDecode := by
  unfold Obligations.HandWrittenWordsDecode
  decide
end Sys2Proof

namespace Sys2Proof

/-! ### The opcode map (`30_encoding.md` R105): what a row's mask examines -/

theorem fieldP_and (w m : Word) : fieldP (w &&& m) = fieldP w &&& fieldP m := BitVec.extractLsb'_and

theorem fieldN_and (w m : Word) : fieldN (w &&& m) = fieldN w &&& fieldN m := BitVec.extractLsb'_and

theorem fieldKk_and (w m : Word) : fieldKk (w &&& m) = fieldKk w &&& fieldKk m := BitVec.extractLsb'_and

theorem opcodeTable_mask : ∀ r ∈ opcodeTable, r.mask = 0xF000 ∨ r.mask = 0xF00F ∨ r.mask = 0xF0FF := by decide

/-- A row whose fields a word has, as far as its mask keeps them, is a row the word matches. -/
theorem matches_of_fields {r : OpcodeRow} (hr : r ∈ opcodeTable) {w : Word} (hp : fieldP w = fieldP r.pattern)
    (hn : r.mask = 0xF00F → fieldN w = fieldN r.pattern) (hk : r.mask = 0xF0FF → fieldKk w = fieldKk r.pattern) :
    w &&& r.mask = r.pattern := by
  have hpattern : ∀ r ∈ opcodeTable, r.pattern &&& r.mask = r.pattern := by decide
  rw [← hpattern r hr]
  rcases opcodeTable_mask r hr with e | e | e
  · rw [e, mask_primary, mask_primary, hp]
  · rw [e, mask_primary_low, mask_primary_low, hp, hn e]
  · rw [e, mask_primary_byte, mask_primary_byte, hp, hk e]

/-! The line of a decoded word depends on the fields its family examines and on nothing else. -/

theorem decodeFamily0_line_congr {w w' : Word} (hn : fieldN w = fieldN w') :
    (decodeFamily0 w).line = (decodeFamily0 w').line := by
  rw [decodeFamily0, decodeFamily0, hn]

theorem decodeFamily8_line_congr {w w' : Word} (hn : fieldN w = fieldN w') :
    (decodeFamily8 w).line = (decodeFamily8 w').line := by
  rw [decodeFamily8, decodeFamily8, hn]
  split <;> rfl

theorem decodeFamilyE_line_congr {w w' : Word} (hn : fieldN w = fieldN w') :
    (decodeFamilyE w).line = (decodeFamilyE w').line := by
  rw [decodeFamilyE, decodeFamilyE, hn]
  split <;> rfl

theorem decodeFamilyF_line_congr {w w' : Word} (hk : fieldKk w = fieldKk w') :
    (decodeFamilyF w).line = (decodeFamilyF w').line := by
  rw [decodeFamilyF, decodeFamilyF, hk]
  split <;> rfl

theorem decodeWord_line_congr {w w' : Word} (hp : fieldP w = fieldP w')
    (hn : fieldP w' ∈ [0x0#4, 0x8#4, 0xE#4] → fieldN w = fieldN w')
    (hk : fieldP w' = 0xF → fieldKk w = fieldKk w') : (decodeWord w).line = (decodeWord w').line := by
  rw [decodeWord, decodeWord, hp]
  split
  case h_1 h => exact decodeFamily0_line_congr (hn (by simp [h]))
  case h_9 h => exact decodeFamily8_line_congr (hn (by simp [h]))
  case h_15 h => exact decodeFamilyE_line_congr (hn (by simp [h]))
  case h_16 =>
    refine decodeFamilyF_line_congr (hk ?_)
    simp only [imp_false] at *
    bv_omega
  all_goals rfl

/-- The rows of the families with a second-level lookup keep what it examines. -/
theorem opcodeTable_examines : ∀ r ∈ opcodeTable,
    (fieldP r.pattern ∈ [0x0#4, 0x8#4, 0xE#4] → fieldN r.mask = 0xF) ∧
    (fieldP r.pattern = 0xF → fieldKk r.mask = 0xFF) := by decide

theorem opcodeTable_decodes : ∀ r ∈ opcodeTable, fieldP r.mask = 0xF ∧ (decodeWord r.pattern).line = r.line := by
  decide

theorem decodeWord_line_of_matches {r : OpcodeRow} (hr : r ∈ opcodeTable) {w : Word} (h : w &&& r.mask = r.pattern) :
    (decodeWord w).line = r.line := by
  obtain ⟨hlow, hbyte⟩ := opcodeTable_examines r hr
  obtain ⟨hprimary, hline⟩ := opcodeTable_decodes r hr
  rw [← hline]
  apply decodeWord_line_congr
  · rw [← h, fieldP_and, hprimary]
    exact (BitVec.and_allOnes).symm
  · intro hfamily
    rw [← h, fieldN_and, hlow hfamily]
    exact (BitVec.and_allOnes).symm
  · intro hfamily
    rw [← h, fieldKk_and, hbyte hfamily]
    exact (BitVec.and_allOnes).symm

/-! Where the map has no row, the decoder answers the no-op: by how much of the word a family examines. -/

theorem row_of_primary : ∀ p : BitVec 4, p ∉ [0x0#4, 0x8#4, 0xE#4, 0xF#4] →
    ∃ r ∈ opcodeTable, r.mask = 0xF000 ∧ fieldP r.pattern = p := by decide

theorem row_of_nibble_or_nop : ∀ p ∈ [0x0#4, 0x8#4, 0xE#4], ∀ n : BitVec 4,
    (∃ r ∈ opcodeTable, r.mask = 0xF00F ∧ fieldP r.pattern = p ∧ fieldN r.pattern = n) ∨
      (decodeWord (formatXyn p 0 0 n)).line = 35 := by decide

theorem row_of_byte_or_nop : ∀ kk : BitVec 8,
    (∃ r ∈ opcodeTable, r.mask = 0xF0FF ∧ fieldP r.pattern = 0xF ∧ fieldKk r.pattern = kk) ∨
      (decodeWord (formatXkk 0xF 0 kk)).line = 35 := by decide

/-- A word no row matches decodes to a no-op: its family is one with a second-level lookup, and that lookup has no entry
for what it examines. -/
theorem decodeWord_line_of_no_match {w : Word} (h : ∀ r ∈ opcodeTable, w &&& r.mask ≠ r.pattern) :
    (decodeWord w).line = 35 := by
  by_cases hF : fieldP w = 0xF
  · obtain ⟨r, hr, hmask, hp, hk⟩ | hnop := row_of_byte_or_nop (fieldKk w)
    · exact absurd (matches_of_fields hr (hF.trans hp.symm) (by simp [hmask]) fun _ => hk.symm) (h r hr)
    · rw [← hnop]
      exact decodeWord_line_congr (by simp [hF]) (by simp) (by simp)
  · by_cases hfamily : fieldP w ∈ [0x0#4, 0x8#4, 0xE#4]
    · obtain ⟨r, hr, hmask, hp, hn⟩ | hnop := row_of_nibble_or_nop _ hfamily (fieldN w)
      · exact absurd (matches_of_fields hr hp.symm (fun _ => hn.symm) (by simp [hmask])) (h r hr)
      · rw [← hnop]
        exact decodeWord_line_congr (by simp) (by simp) (by simpa using fun e => absurd e hF)
    · obtain ⟨r, hr, hmask, hp⟩ := row_of_primary (fieldP w) (by simp_all)
      exact absurd (matches_of_fields hr hp.symm (by simp [hmask]) (by simp [hmask])) (h r hr)

/-- Settles O53: a matching row fixes what the decoder examines, and a word with no row falls through its family's lookup. -/
theorem decodeFollowsTheOpcodeMap : Obligations.DecodeFollowsTheOpcodeMap :=
  fun _ => ⟨fun _ hr h => decodeWord_line_of_matches hr h, decodeWord_line_of_no_match⟩

end Sys2Proof

namespace Sys2Proof

/-! ### From the number a statement writes to the decoded instruction -/

/-- A number that is the encoder's word of a well-formed instruction decodes to it. -/
theorem decodeWord_ofNat {n : Nat} {i : Instr} (h : BitVec.ofNat 16 n = encode i) (hi : i.wellFormed = true) :
    decodeWord (BitVec.ofNat 16 n) = i :=
  h ▸ decodeWord_encode hi

/-- A number below 0x1000 is a word of family 0; its upper byte `m` holds the two nibbles the family does not examine. -/
theorem ofNat_eq_formatXyn_family0 {m : Nat} (hm : m < 256) (n : BitVec 4) :
    BitVec.ofNat 16 (m * 16 + n.toNat) = formatXyn 0x0 ⟨m / 16, by omega⟩ ⟨m % 16, by omega⟩ n := by
  have hp : (0x0 : BitVec 4).toNat = 0 := rfl
  apply ofNat_eq_of_toNat
  rw [formatXyn_toNat, hp]
  dsimp only
  omega

end Sys2Proof

namespace Sys2Proof.Machine

/-! ### Family 0 (`41_family_0.md` R140, R141) -/

/-- Settles O19: the low nibble 0 alone selects the instruction, which replaces the display by the blank one. -/
theorem clearTurnsEveryCellOff : Obligations.ClearTurnsEveryCellOff := by
  refine ⟨fun m hm => ?_, fun s => ⟨_, exec_cls s, fun r c => ?_, s.setFb_frame _⟩⟩
  · exact (congrArg decodeWord (ofNat_eq_formatXyn_family0 hm 0x0)).trans (decodeWord_formatXyn_cls _ _)
  · rw [State.cell_setFb, blankDisplay_cell]

/-- Settles O20: the low nibble 0xE alone selects the instruction, which pops the entry below `SP`. -/
theorem returnPopsThePC : Obligations.ReturnPopsThePC := by
  refine ⟨fun m hm => ?_, fun s k hk => ?_⟩
  · exact (congrArg decodeWord (ofNat_eq_formatXyn_family0 hm 0xE)).trans (decodeWord_formatXyn_ret _ _)
  · have hsp : 1 ≤ s.sp.toNat ∧ s.sp.toNat ≤ 16 := by omega
    refine ⟨_, exec_ret hsp, ?_, ?_, s.popAndJump_frame hsp⟩
    · rw [State.popAndJump_sp]
      bv_omega
    · simp only [State.popAndJump_pc, hk, Nat.add_sub_cancel, Fin.getElem_fin]

/-! ### Jumps and calls (`42_flow_skip_imm.md` R150, R151, `44_family_9_to_D.md` R192) -/

/-- Settles O21: the word decodes by its fields, and the instruction is the one write of `PC`. -/
theorem jumpSetsPC : Obligations.JumpSetsPC := by
  refine fun nnn => ⟨decodeWord_ofNat (ofNat_eq_formatNnn 0x1 nnn) rfl, fun s => ?_⟩
  refine ⟨_, exec_jp nnn s, ?_, s.setPc_frame _⟩
  rw [State.setPc_pc, zextAddr_toNat]

/-- Settles O22: the word decodes by its fields, and below 16 the call is the push and the jump. -/
theorem callPushesAdvancedPC : Obligations.CallPushesAdvancedPC := by
  refine fun nnn => ⟨decodeWord_ofNat (ofNat_eq_formatNnn 0x2 nnn) rfl, fun s k hk => ?_⟩
  have hsp : s.sp.toNat < 16 := hk ▸ k.isLt
  obtain rfl : k = ⟨s.sp.toNat, hsp⟩ := Fin.ext hk.symm
  refine ⟨_, exec_call nnn hsp, ?_, ?_, ?_, s.pushAndJump_frame hsp _⟩
  · simp
  · rw [State.pushAndJump_sp]
    bv_omega
  · rw [State.pushAndJump_pc, zextAddr_toNat]

/-- Settles O47: the return finds `SP` one above the entry the call wrote, whatever `PC` is by then. -/
theorem callThenReturnRestoresPC : Obligations.CallThenReturnRestoresPC := by
  intro nnn s hsp
  refine ⟨_, exec_call nnn hsp, fun w => ?_⟩
  have hcount : (s.sp + 1).toNat = s.sp.toNat + 1 := by bv_omega
  refine ⟨_, exec_ret (by simp only [State.pushAndJump_sp, hcount]; omega), ?_, ?_⟩
  · simp only [State.popAndJump_pc, State.pushAndJump_sp, State.pushAndJump_stack, hcount, Nat.add_sub_cancel,
      Vector.getElem_set_self]
  · rw [State.popAndJump_sp, State.pushAndJump_sp, BitVec.add_sub_cancel]

/-- Settles O33: the word decodes by its fields, and the sum of a byte and a 12-bit address fits in 16 bits. -/
theorem indexedJumpAddsV0 : Obligations.IndexedJumpAddsV0 := by
  refine fun nnn => ⟨decodeWord_ofNat (ofNat_eq_formatNnn 0xB nnn) rfl, fun s => ?_⟩
  refine ⟨_, exec_jpV0 nnn s, ?_, s.setPc_frame _⟩
  rw [State.setPc_pc, BitVec.toNat_add, zextByte_toNat, zextAddr_toNat]
  omega

/-! ### Skips (`42_flow_skip_imm.md` R152 to R154, `44_family_9_to_D.md` R190, `45_keypad_E.md` R210, R211) -/

/-- A skip adds 2 to `PC`, modulo 65536, if its condition holds. -/
theorem State.skipIf_pc_toNat (c : Bool) (s : State) :
    (s.skipIf c).pc.toNat = (s.pc.toNat + if c = true then 2 else 0) % 65536 := by
  cases c with
  | false => exact (Nat.mod_eq_of_lt s.pc.isLt).symm
  | true => exact BitVec.toNat_add ..

section
variable {α : Type} [BEq α] [LawfulBEq α] [DecidableEq α]

theorem State.skipIf_beq_pc_toNat (a b : α) (s : State) :
    (s.skipIf (a == b)).pc.toNat = (s.pc.toNat + if a = b then 2 else 0) % 65536 := by
  rw [State.skipIf_pc_toNat]
  by_cases h : a = b <;> simp [h]

theorem State.skipIf_bne_pc_toNat (a b : α) (s : State) :
    (s.skipIf (a != b)).pc.toNat = (s.pc.toNat + if a = b then 0 else 2) % 65536 := by
  rw [State.skipIf_pc_toNat]
  by_cases h : a = b <;> simp [h]

end

/-- Settles O23: the words decode by their fields, and each instruction is a skip on its own condition. -/
theorem comparingSkipsMovePC : Obligations.ComparingSkipsMovePC := by
  intro x y kk n
  refine ⟨?seImmWord, ?sneImmWord, ?seRegWord, ?sneRegWord, fun s => ⟨?seImm, ?sneImm, ?seReg, ?sneReg⟩⟩
  case seImmWord => exact decodeWord_ofNat (ofNat_eq_formatXkk 0x3 x kk) rfl
  case sneImmWord => exact decodeWord_ofNat (ofNat_eq_formatXkk 0x4 x kk) rfl
  case seRegWord =>
    exact (congrArg decodeWord (ofNat_eq_of_toNat (formatXyn_toNat 0x5 x y n))).trans (decodeWord_formatXyn_seReg x y n)
  case sneRegWord =>
    exact (congrArg decodeWord (ofNat_eq_of_toNat (formatXyn_toNat 0x9 x y n))).trans (decodeWord_formatXyn_sneReg x y n)
  case seImm => exact ⟨_, exec_seImm x kk s, s.skipIf_frame _, s.skipIf_beq_pc_toNat _ _⟩
  case sneImm => exact ⟨_, exec_sneImm x kk s, s.skipIf_frame _, s.skipIf_bne_pc_toNat _ _⟩
  case seReg => exact ⟨_, exec_seReg x y s, s.skipIf_frame _, s.skipIf_beq_pc_toNat _ _⟩
  case sneReg => exact ⟨_, exec_sneReg x y s, s.skipIf_frame _, s.skipIf_bne_pc_toNat _ _⟩

section
variable {s : State} {x : Reg} {k : Fin 16}

theorem exec_skp_key (h : (s.reg x).toNat = k.val) : exec (.skp x) s = .next (s.skipIf s.key[k]) := by
  have hkey : (s.reg x).toNat < 16 := h ▸ k.isLt
  simp only [exec_skp hkey, h, Fin.getElem_fin]

theorem exec_sknp_key (h : (s.reg x).toNat = k.val) : exec (.sknp x) s = .next (s.skipIf (!s.key[k])) := by
  have hkey : (s.reg x).toNat < 16 := h ▸ k.isLt
  simp only [exec_sknp hkey, h, Fin.getElem_fin]

end

/-- Settles O36: the low nibble alone selects between the two, and with a key number each is a skip on that key. -/
theorem keypadSkipsMovePC : Obligations.KeypadSkipsMovePC := by
  intro x m
  refine ⟨?skpWord, ?sknpWord, fun s k hk => ⟨?skp, ?sknp⟩⟩
  case skpWord =>
    exact (congrArg decodeWord (ofNat_eq_formatXyn 0xE x m.toFin 0xE)).trans (decodeWord_formatXyn_skp x m.toFin)
  case sknpWord =>
    exact (congrArg decodeWord (ofNat_eq_formatXyn 0xE x m.toFin 0x1)).trans (decodeWord_formatXyn_sknp x m.toFin)
  case skp => exact ⟨_, exec_skp_key hk, s.skipIf_frame _, s.skipIf_pc_toNat _⟩
  case sknp =>
    refine ⟨_, exec_sknp_key hk, s.skipIf_frame _, ?_⟩
    rw [State.skipIf_pc_toNat]
    cases s.key[k] <;> rfl

/-! ### Arithmetic with a flag (`43_alu_8.md` R175 to R179) -/

/-- Settles O27: both writes are of values computed from the old operands, the flag first. -/
theorem addRegistersSetsCarry : Obligations.AddRegistersSetsCarry := by
  refine fun x y => ⟨decodeWord_ofNat (ofNat_eq_formatXyn 0x8 x y 0x4) rfl, fun s => ?_⟩
  refine ⟨_, exec_addReg x y s, ?_, fun hx => ?_, s.setFlag_setReg_frame x _ _⟩
  · rw [State.reg_setReg_same, addBytes_toNat]
  · rw [State.reg_setReg_other _ _ _ _ hx, State.reg_setReg_same, carryFlag_eq]

theorem greaterFlag_toNat (a b : Byte) : (greaterFlag a b).toNat = if a.toNat > b.toNat then 1 else 0 := by
  rw [greaterFlag_eq]
  split <;> rfl

section
variable (s : State) (x a b : Reg) (flag : Byte)

/-- What a subtraction after its flag write leaves in the flag, where it is not the destination. -/
theorem State.flag_subInto (hx : x ≠ 0xF) : ((s.setReg 0xF flag).subInto x a b).reg 0xF = flag := by
  rw [State.subInto, State.reg_setReg_other _ _ _ _ hx, State.reg_setReg_same]

/-- What a subtraction after its flag write leaves in its destination: an operand that is `V[0xF]` is the new flag. -/
theorem State.reg_subInto_toNat : (((s.setReg 0xF flag).subInto x a b).reg x).toNat =
    ((if 0xF = a then flag else s.reg a).toNat + 256 - (if 0xF = b then flag else s.reg b).toNat) % 256 := by
  rw [State.subInto, State.reg_setReg_same, subBytes_toNat, State.reg_setReg, State.reg_setReg]

theorem subBytes_self : subBytes flag flag = 0 := by
  apply BitVec.eq_of_toNat_eq
  rw [subBytes_toNat, Nat.add_sub_cancel_left]
  rfl

/-- A register subtracted from itself. -/
theorem State.reg_subInto_self : (s.subInto x a a).reg x = 0 := by
  rw [State.subInto, State.reg_setReg_same, subBytes_self]

end

/-- Settles O28: the result reads its operands after the flag write, so each case says which of them the flag replaces. -/
theorem subtractFollowsItsCaseTable : Obligations.SubtractFollowsItsCaseTable := by
  refine fun x y => ⟨decodeWord_ofNat (ofNat_eq_formatXyn 0x8 x y 0x5) rfl, fun s f hf => ?_⟩
  have hflag : (greaterFlag (s.reg x) (s.reg y)).toNat = f := hf ▸ greaterFlag_toNat ..
  have hresult := s.reg_subInto_toNat x x y (greaterFlag (s.reg x) (s.reg y))
  refine ⟨_, exec_subReg x y s, s.setFlag_setReg_frame x _ _, ?flag, ?neither, ?dest, ?operand, ?both⟩
  case flag => exact fun hx => (congrArg BitVec.toNat (s.flag_subInto x x y _ hx)).trans hflag
  case neither => exact fun hx hy => by rwa [if_neg hx.symm, if_neg hy.symm] at hresult
  case dest => rintro rfl hy; rwa [if_pos rfl, if_neg hy.symm, hflag] at hresult
  case operand => rintro hx rfl; rwa [if_neg hx.symm, if_pos rfl, hflag] at hresult
  case both => rintro rfl rfl; exact State.reg_subInto_self ..

/-- Settles O30: `subtractFollowsItsCaseTable` with minuend and subtrahend exchanged. -/
theorem reverseSubtractFollowsItsCaseTable : Obligations.ReverseSubtractFollowsItsCaseTable := by
  refine fun x y => ⟨decodeWord_ofNat (ofNat_eq_formatXyn 0x8 x y 0x7) rfl, fun s f hf => ?_⟩
  have hflag : (greaterFlag (s.reg y) (s.reg x)).toNat = f := hf ▸ greaterFlag_toNat ..
  have hresult := s.reg_subInto_toNat x y x (greaterFlag (s.reg y) (s.reg x))
  refine ⟨_, exec_subn x y s, s.setFlag_setReg_frame x _ _, ?flag, ?neither, ?dest, ?operand, ?both⟩
  case flag => exact fun hx => (congrArg BitVec.toNat (s.flag_subInto x y x _ hx)).trans hflag
  case neither => exact fun hx hy => by rwa [if_neg hy.symm, if_neg hx.symm] at hresult
  case dest => rintro rfl hy; rwa [if_neg hy.symm, if_pos rfl, hflag] at hresult
  case operand => rintro hx rfl; rwa [if_pos rfl, if_neg hx.symm, hflag] at hresult
  case both => rintro rfl rfl; exact State.reg_subInto_self ..

/-- Settles O29: the shift reads `V[x]` after the flag write, so with `x = 0xF` it shifts the flag out. -/
theorem shiftRightUsesVxOnly : Obligations.ShiftRightUsesVxOnly := by
  refine fun x y => ⟨decodeWord_ofNat (ofNat_eq_formatXyn 0x8 x y 0x6) rfl, fun s => ?_⟩
  refine ⟨_, exec_shr x y s, s.setFlag_setReg_frame x _ _, fun hx => ⟨?_, ?_⟩, ?_⟩
  · rw [State.shiftRight, State.reg_setReg_same, State.reg_setReg_other _ _ _ _ hx.symm, BitVec.toNat_ushiftRight,
      Nat.shiftRight_eq_div_pow]
  · rw [State.shiftRight, State.reg_setReg_other _ _ _ _ hx, State.reg_setReg_same, lowBitFlag_toNat]
  · rintro rfl
    apply BitVec.eq_of_toNat_eq
    rw [State.shiftRight, State.reg_setReg_same, State.reg_setReg_same, BitVec.toNat_ushiftRight, lowBitFlag_toNat,
      Nat.shiftRight_eq_div_pow]
    exact Nat.div_eq_of_lt (Nat.mod_lt _ (by decide))

theorem highBitFlag_toNat (a : Byte) : (highBitFlag a).toNat = a.toNat / 128 := by
  revert a
  decide

theorem shiftLeftOne_toNat (a : Byte) : (a <<< 1).toNat = a.toNat * 2 % 256 := by
  rw [BitVec.toNat_shiftLeft, Nat.shiftLeft_eq]

/-- Settles O31: the shift reads `V[x]` after the flag write, so with `x = 0xF` it doubles the flag. -/
theorem shiftLeftUsesVxOnly : Obligations.ShiftLeftUsesVxOnly := by
  refine fun x y => ⟨decodeWord_ofNat (ofNat_eq_formatXyn 0x8 x y 0xE) rfl, fun s => ?_⟩
  refine ⟨_, exec_shl x y s, s.setFlag_setReg_frame x _ _, fun hx => ⟨?_, ?_⟩, ?_⟩
  · rw [State.shiftLeft, State.reg_setReg_same, State.reg_setReg_other _ _ _ _ hx.symm, shiftLeftOne_toNat]
  · rw [State.shiftLeft, State.reg_setReg_other _ _ _ _ hx, State.reg_setReg_same, highBitFlag_toNat]
  · rintro rfl
    rw [State.shiftLeft, State.reg_setReg_same, State.reg_setReg_same, shiftLeftOne_toNat, highBitFlag_toNat]
    omega

/-! ### Random byte, delay timer, key wait, index sum (`44_family_9_to_D.md` R193, `46_family_F.md` R220, R221, R224) -/

/-- Settles O34: the word decodes by its fields, and the instruction counts a draw and writes the masked byte. -/
theorem randomByteIsMasked : Obligations.RandomByteIsMasked := by
  refine fun x kk => ⟨decodeWord_ofNat (ofNat_eq_formatXkk 0xC x kk) rfl, fun s => ?_⟩
  have hreg : (s.countDraw.setReg x (s.randomNow &&& kk)).reg x = Config.randomByte s.draws &&& kk :=
    State.reg_setReg_same ..
  refine ⟨_, exec_rnd x kk s, hreg, fun k hk => ?_, ?_, s.countDraw_setReg_frame x _⟩
  · rw [hreg, BitVec.getLsbD_and, hk, Bool.and_false]
  · rw [State.setReg_draws, State.countDraw_draws]

/-- Settles O37: the word decodes by its fields, and the instruction is the one register write of `DT`. -/
theorem readDelayTimerSetsRegister : Obligations.ReadDelayTimerSetsRegister :=
  fun x => ⟨decodeWord_ofNat (ofNat_eq_formatXkk_opcode 0xF x 0x07) rfl,
    fun s => ⟨_, exec_ldVxDt x s, State.reg_setReg_same .., s.setReg_frame x _⟩⟩

theorem keyByte_toNat (k : Fin 16) : (keyByte k).toNat = k.val := by
  revert k
  decide

/-- Settles O38: the key the instruction finds is the lowest pressed one, and it finds none exactly where none is pressed. -/
theorem keyWaitTakesLowestKeyOrRewinds : Obligations.KeyWaitTakesLowestKeyOrRewinds := by
  intro x
  refine ⟨decodeWord_ofNat (ofNat_eq_formatXkk_opcode 0xF x 0x0A) rfl, fun s => ⟨fun k hk hlow => ?_, fun hno => ?_⟩⟩
  · refine ⟨_, exec_ldVxK_pressed x ((s.lowestKey_some k).mpr ⟨hk, hlow⟩), ?_, s.setReg_frame x _⟩
    rw [State.reg_setReg_same, keyByte_toNat]
  · exact ⟨_, exec_ldVxK_waits x (s.lowestKey_none.mpr hno), State.setPc_pc .., s.setPc_frame _⟩

/-- Settles O40: the word decodes by its fields, and the instruction is the one write of `I` with the 16-bit sum. -/
theorem addToIndexWrapsAt16Bits : Obligations.AddToIndexWrapsAt16Bits := by
  refine fun x => ⟨decodeWord_ofNat (ofNat_eq_formatXkk_opcode 0xF x 0x1E) rfl, fun s => ?_⟩
  refine ⟨_, exec_addI x s, ?_, s.setI_frame _⟩
  rw [State.setI_i, BitVec.toNat_add, zextByte_toNat]

end Sys2Proof.Machine

namespace Sys2Proof.Machine

/-! ### The draw as a list of cells (`44_family_9_to_D.md` R195) -/

/-- The cells of a list toggled in turn, and whether any was on when its turn came. -/
def toggleCells (cells : List (Fin 32 × Fin 64)) (acc : Display × Bool) : Display × Bool :=
  cells.foldl (fun acc p => (toggleCell acc.1 p.1 p.2, acc.2 || acc.1[p.1][p.2])) acc

/-- The cells under the set bits of sprite row `row`, column 0 first. -/
def rowCells (x0 y0 : Byte) (row : Nat) (b : Byte) : List (Fin 32 × Fin 64) :=
  ([0, 1, 2, 3, 4, 5, 6, 7].filter (fun col => b.getLsbD (7 - col))).map (fun col => (drawRow y0 row, drawCol x0 col))

/-- The cells under the set bits of the sprite rows from row number `row` on. -/
def spriteCells (x0 y0 : Byte) : Nat → List Byte → List (Fin 32 × Fin 64)
  | _, [] => []
  | row, b :: bs => rowCells x0 y0 row b ++ spriteCells x0 y0 (row + 1) bs

theorem toggleCells_append (cells cells' : List (Fin 32 × Fin 64)) (acc : Display × Bool) :
    toggleCells (cells ++ cells') acc = toggleCells cells' (toggleCells cells acc) :=
  List.foldl_append

theorem drawByte_eq_toggleCells (x0 y0 : Byte) (row : Nat) (b : Byte) (acc : Display × Bool) :
    drawByte x0 y0 row b acc = toggleCells (rowCells x0 y0 row b) acc := by
  rw [drawByte_eq, toggleCells, rowCells, List.foldl_map, List.foldl_filter]
  rfl

theorem drawRows_eq_toggleCells (x0 y0 : Byte) (row : Nat) (bs : List Byte) (acc : Display × Bool) :
    drawRows x0 y0 row bs acc = toggleCells (spriteCells x0 y0 row bs) acc := by
  induction bs generalizing row acc with
  | nil => rfl
  | cons b bs ih => rw [drawRows_cons, ih, drawByte_eq_toggleCells, spriteCells, toggleCells_append]

theorem toggleCells_cons (p : Fin 32 × Fin 64) (cells : List (Fin 32 × Fin 64)) (acc : Display × Bool) :
    toggleCells (p :: cells) acc =
      toggleCells cells (toggleCell acc.1 p.1 p.2, acc.2 || acc.1[p.1][p.2]) := rfl

/-- A list that names no cell twice flips each cell it names and leaves every other alone. -/
theorem toggleCells_cell {cells : List (Fin 32 × Fin 64)} (h : cells.Nodup) (acc : Display × Bool) (r : Fin 32)
    (c : Fin 64) : (toggleCells cells acc).1[r][c] = if (r, c) ∈ cells then !acc.1[r][c] else acc.1[r][c] := by
  induction cells generalizing acc with
  | nil => rfl
  | cons p cells ih =>
    obtain ⟨hp, hcells⟩ := List.nodup_cons.mp h
    rw [toggleCells_cons, ih hcells, toggleCell_cell]
    by_cases he : (r, c) = p
    · subst he
      simp [hp]
    · have hne : ¬ (r = p.1 ∧ c = p.2) := fun ⟨hr, hc⟩ => he (Prod.ext hr hc)
      simp [he, hne]

/-- A list that names no cell twice meets a cell that is on exactly where one it names was on at the start. -/
theorem toggleCells_collided {cells : List (Fin 32 × Fin 64)} (h : cells.Nodup) (acc : Display × Bool) :
    (toggleCells cells acc).2 = true ↔ acc.2 = true ∨ ∃ q ∈ cells, acc.1[q.1][q.2] = true := by
  induction cells generalizing acc with
  | nil => simp [toggleCells]
  | cons p cells ih =>
    obtain ⟨hp, hcells⟩ := List.nodup_cons.mp h
    have hlater : ∀ q ∈ cells, (toggleCell acc.1 p.1 p.2)[q.1][q.2] = acc.1[q.1][q.2] := by
      intro q hq
      have hne : ¬ (q.1 = p.1 ∧ q.2 = p.2) := fun ⟨hr, hc⟩ => hp (Prod.ext hr hc ▸ hq)
      rw [toggleCell_cell, if_neg hne]
    rw [toggleCells_cons, ih hcells, Bool.or_eq_true, or_assoc, List.exists_mem_cons_iff]
    exact or_congr_right (or_congr_right (exists_congr fun q => and_congr_right fun hq => by rw [hlater q hq]))

/-! ### Which cells a sprite covers -/

theorem mem_rowCells (x0 y0 : Byte) (row : Nat) (b : Byte) (r : Fin 32) (c : Fin 64) :
    (r, c) ∈ rowCells x0 y0 row b ↔
      ∃ col < 8, b.getLsbD (7 - col) = true ∧ r = drawRow y0 row ∧ c = drawCol x0 col := by
  have hcols : ∀ col, col ∈ [0, 1, 2, 3, 4, 5, 6, 7] ↔ col < 8 := fun col => by simp; omega
  simp only [rowCells, List.mem_map, List.mem_filter, hcols, Prod.mk.injEq, and_assoc, eq_comm]

theorem mem_spriteCells (x0 y0 : Byte) (row : Nat) (bs : List Byte) (r : Fin 32) (c : Fin 64) :
    (r, c) ∈ spriteCells x0 y0 row bs ↔ ∃ k < bs.length, ∃ col < 8,
      (bs.getD k 0).getLsbD (7 - col) = true ∧ r = drawRow y0 (row + k) ∧ c = drawCol x0 col := by
  induction bs generalizing row with
  | nil => simp [spriteCells]
  | cons b bs ih =>
    rw [spriteCells, List.mem_append, mem_rowCells, ih, List.length_cons, Nat.exists_lt_succ_left (n := bs.length)]
    simp only [List.getD_cons_zero, List.getD_cons_succ, Nat.add_zero, Nat.add_assoc, Nat.add_comm 1]

/-- Two sprite rows less than 32 apart are drawn on different rows of the display. -/
theorem drawRow_injective {y0 : Byte} {row row' : Nat} (h : drawRow y0 row = drawRow y0 row') (hle : row ≤ row')
    (hlt : row' < row + 32) : row = row' := by
  have hval : (y0.toNat + row) % 32 = (y0.toNat + row') % 32 := congrArg Fin.val h
  omega

theorem drawCol_injective {x0 : Byte} {col col' : Nat} (h : drawCol x0 col = drawCol x0 col') (hcol : col < 8)
    (hcol' : col' < 8) : col = col' := by
  have hval : (x0.toNat + col) % 64 = (x0.toNat + col') % 64 := congrArg Fin.val h
  omega

theorem rowCells_nodup (x0 y0 : Byte) (row : Nat) (b : Byte) : (rowCells x0 y0 row b).Nodup := by
  have hcols : ∀ col ∈ [0, 1, 2, 3, 4, 5, 6, 7], col < 8 := by decide
  refine List.Nodup.map_on (fun col hcol col' hcol' h => ?_) (List.Nodup.filter _ (by decide))
  exact drawCol_injective (congrArg Prod.snd h) (hcols col (List.mem_of_mem_filter hcol))
    (hcols col' (List.mem_of_mem_filter hcol'))

/-- A sprite of at most 32 rows covers no cell twice: its rows, and the columns of one row, are distinct after the wrap. -/
theorem spriteCells_nodup (x0 y0 : Byte) (row : Nat) {bs : List Byte} (h : bs.length ≤ 32) :
    (spriteCells x0 y0 row bs).Nodup := by
  induction bs generalizing row with
  | nil => exact List.nodup_nil
  | cons b bs ih =>
    rw [List.length_cons] at h
    refine List.Nodup.append (rowCells_nodup x0 y0 row b) (ih (row + 1) (by omega)) fun p hp hlater => ?_
    obtain ⟨_, _, _, hr, _⟩ := (mem_rowCells x0 y0 row b p.1 p.2).mp hp
    obtain ⟨k, hk, _, _, _, hr', _⟩ := (mem_spriteCells x0 y0 (row + 1) bs p.1 p.2).mp hlater
    have := drawRow_injective (hr.symm.trans hr') (by omega) (by omega)
    omega

/-- The cells of a whole sprite are the covered ones of `44_family_9_to_D.md` R195. -/
theorem mem_spriteCells_iff_covers (x0 y0 : Byte) (bs : List Byte) (r : Fin 32) (c : Fin 64) :
    (r, c) ∈ spriteCells x0 y0 0 bs ↔ SpriteCovers x0 y0 bs.length (fun k => bs.getD k 0) r c := by
  rw [mem_spriteCells, SpriteCovers]
  simp only [Nat.zero_add, exists_and_left, Fin.ext_iff, drawRow, drawCol, Fin.val_ofNat]

/-! ### The draw -/

section
variable {x0 y0 : Byte} {rows : List Byte} (f : Display)

theorem drawSprite_eq_toggleCells : drawSprite x0 y0 rows f = toggleCells (spriteCells x0 y0 0 rows) (f, false) :=
  drawRows_eq_toggleCells ..

variable (h : rows.length ≤ 15)
include h

theorem drawSprite_cell_covered {r : Fin 32} {c : Fin 64}
    (hcovers : SpriteCovers x0 y0 rows.length (fun k => rows.getD k 0) r c) :
    (drawSprite x0 y0 rows f).1[r][c] = !f[r][c] := by
  rw [drawSprite_eq_toggleCells, toggleCells_cell (spriteCells_nodup x0 y0 0 (by omega)),
    if_pos ((mem_spriteCells_iff_covers ..).mpr hcovers)]

theorem drawSprite_cell_uncovered {r : Fin 32} {c : Fin 64}
    (hcovers : ¬ SpriteCovers x0 y0 rows.length (fun k => rows.getD k 0) r c) :
    (drawSprite x0 y0 rows f).1[r][c] = f[r][c] := by
  rw [drawSprite_eq_toggleCells, toggleCells_cell (spriteCells_nodup x0 y0 0 (by omega)),
    if_neg ((mem_spriteCells_iff_covers ..).not.mpr hcovers)]

theorem drawSprite_collided : (drawSprite x0 y0 rows f).2 = true ↔
    ∃ r c, SpriteCovers x0 y0 rows.length (fun k => rows.getD k 0) r c ∧ f[r][c] = true := by
  rw [drawSprite_eq_toggleCells, toggleCells_collided (spriteCells_nodup x0 y0 0 (by omega))]
  simp only [Bool.false_eq_true, false_or, Prod.exists, mem_spriteCells_iff_covers]

end

/-- The rows a draw reads are the bytes at `I` on. -/
theorem spriteCovers_readBytes (x0 y0 : Byte) (s : State) (n : Nat) (r : Fin 32) (c : Fin 64) :
    SpriteCovers x0 y0 (s.mem.readBytes s.i.toNat n).length (fun k => (s.mem.readBytes s.i.toNat n).getD k 0) r c ↔
      SpriteCovers x0 y0 n (fun k => s.readByte (s.i.toNat + k)) r c := by
  rw [Memory.readBytes_length]
  refine exists_congr fun row => exists_congr fun col => and_congr_right fun hrow => ?_
  have hbyte : (s.mem.readBytes s.i.toNat n).getD row 0 = s.readByte (s.i.toNat + row) := by
    rw [List.getD_eq_getElem?_getD, Memory.readBytes_getElem?, if_pos hrow, Option.getD_some, State.readByte_def]
  simp only [hbyte]

theorem State.cell_drawAndFlag (s : State) (x y : Reg) (n : Nat) (r : Fin 32) (c : Fin 64) :
    (s.drawAndFlag x y n).cell r c =
      (drawSprite (s.reg x) (s.reg y) (s.mem.readBytes s.i.toNat n) s.fb).1[r][c] := rfl

theorem State.flag_drawAndFlag (s : State) (x y : Reg) (n : Nat) : (s.drawAndFlag x y n).reg 0xF =
    flagByte (drawSprite (s.reg x) (s.reg y) (s.mem.readBytes s.i.toNat n) s.fb).2 :=
  State.reg_setReg_same ..

/-- Settles O35: with its rows inside memory the draw is that of the sprite at `I`, whose rows are at most 15. -/
theorem drawFlipsCoveredCells : Obligations.DrawFlipsCoveredCells := by
  intro x y n
  refine ⟨decodeWord_ofNat (ofNat_eq_of_toNat (formatXyn_toNat 0xD x y n)) rfl, fun s hfits => ?_⟩
  have hlen : (s.mem.readBytes s.i.toNat n.toNat).length ≤ 15 := by
    rw [Memory.readBytes_length]
    exact Nat.le_of_lt_succ n.isLt
  refine ⟨_, exec_drw x y hfits, s.drawAndFlag_frame x y _, fun r c hcovers => ?covered, fun r c hcovers => ?uncovered,
    ?collision, fun hoff => ?noCollision⟩
  case covered =>
    exact drawSprite_cell_covered s.fb hlen ((spriteCovers_readBytes ..).mpr hcovers)
  case uncovered =>
    exact drawSprite_cell_uncovered s.fb hlen ((spriteCovers_readBytes ..).not.mpr hcovers)
  case collision =>
    rintro ⟨r, c, hcovers, hon⟩
    have hhit := (drawSprite_collided s.fb hlen).mpr ⟨r, c, (spriteCovers_readBytes ..).mpr hcovers, hon⟩
    rw [State.flag_drawAndFlag, hhit]
    rfl
  case noCollision =>
    have hmiss : (drawSprite (s.reg x) (s.reg y) (s.mem.readBytes s.i.toNat n.toNat) s.fb).2 = false := by
      rw [← Bool.not_eq_true, drawSprite_collided s.fb hlen]
      rintro ⟨r, c, hcovers, hon⟩
      exact Bool.false_ne_true ((hoff r c ((spriteCovers_readBytes ..).mp hcovers)).symm.trans hon)
    rw [State.flag_drawAndFlag, hmiss]
    rfl

/-- Settles O48: the second draw flips each covered cell back, and finds on exactly the covered cells that were off. -/
theorem drawingTwiceErases : Obligations.DrawingTwiceErases := by
  intro x0 y0 rows f h
  constructor
  · refine Vector.ext fun r hr => Vector.ext fun c hc => ?_
    by_cases hcovers : SpriteCovers x0 y0 rows.length (fun k => rows.getD k 0) ⟨r, hr⟩ ⟨c, hc⟩
    · have hfirst := drawSprite_cell_covered f h hcovers
      have hsecond := drawSprite_cell_covered (drawSprite x0 y0 rows f).1 h hcovers
      rw [hfirst, Bool.not_not] at hsecond
      exact hsecond
    · have hfirst := drawSprite_cell_uncovered f h hcovers
      have hsecond := drawSprite_cell_uncovered (drawSprite x0 y0 rows f).1 h hcovers
      exact hsecond.trans hfirst
  · rw [drawSprite_collided _ h]
    refine exists_congr fun r => exists_congr fun c => and_congr_right fun hcovers => ?_
    rw [drawSprite_cell_covered f h hcovers, Bool.not_eq_true']

end Sys2Proof.Machine

namespace Sys2Proof.Machine

/-! ### Block stores and loads (`20_memory.md` R66 to R75, `46_family_F.md` R226 to R228) -/

/-- Byte `k` of a block stored inside memory is what its address reads. -/
theorem Memory.read_writeBytes_inside {m : Memory} (hwf : m.wf = true) {a k : Nat} {us : List Byte} {u : Byte}
    (hfits : a + us.length ≤ Config.memSize) (hk : us[k]? = some u) : (m.writeBytes a us).read (a + k) = u := by
  rw [Memory.read_writeBytes hwf hfits, if_pos (Nat.le_add_right a k), Nat.add_sub_cancel_left,
    List.getD_eq_getElem?_getD, hk, Option.getD_some]

/-- The state a block store of `V[0]..V[x]` leaves. -/
def State.storedRegs (s : State) (x : Reg) : State := s.setMem (s.mem.writeBytes s.i.toNat (s.regsUpTo x))

/-- The state a store of the decimal digits of `V[x]` leaves. -/
def State.storedDigits (s : State) (x : Reg) : State :=
  s.setMem (s.mem.writeBytes s.i.toNat (decimalDigits (s.reg x)))

section
variable {s : State} {x : Reg} {a : Nat}

theorem State.readByte_storedRegs (hwf : s.mem.wf = true) (hfits : s.i.toNat + x.val ≤ 4095) {r : Reg} (hr : r ≤ x)
    (ha : a = s.i.toNat + r.val) : (s.storedRegs x).readByte a = s.reg r := by
  subst ha
  refine Memory.read_writeBytes_inside hwf ?_ (s.regsUpTo_getElem? x r hr)
  rw [State.regsUpTo_length, Config.memSize]
  omega

theorem State.readByte_storedRegs_outside (ha : a < s.i.toNat ∨ s.i.toNat + x.val < a) :
    (s.storedRegs x).readByte a = s.readByte a := by
  refine Memory.read_writeBytes_outside s.mem _ ?_
  rw [State.regsUpTo_length]
  omega

/-- The hundreds at `I`, the tens at `I + 1`, the ones at `I + 2`. -/
theorem State.readByte_storedDigits (hwf : s.mem.wf = true) (hfits : s.i.toNat + 2 ≤ 4095) :
    ((s.storedDigits x).readByte s.i.toNat).toNat = (s.reg x).toNat / 100 ∧
    ((s.storedDigits x).readByte (s.i.toNat + 1)).toNat = (s.reg x).toNat / 10 % 10 ∧
    ((s.storedDigits x).readByte (s.i.toNat + 2)).toNat = (s.reg x).toNat % 10 := by
  have hv : (s.reg x).toNat < 256 := (s.reg x).isLt
  have hlen : s.i.toNat + (decimalDigits (s.reg x)).length ≤ Config.memSize := by
    rw [decimalDigits_length, Config.memSize]
    omega
  have hdigit : ∀ k n, (decimalDigits (s.reg x))[k]? = some (BitVec.ofNat 8 n) → n < 256 →
      ((s.storedDigits x).readByte (s.i.toNat + k)).toNat = n := by
    intro k n hk hn
    have hread : (s.storedDigits x).readByte (s.i.toNat + k) = BitVec.ofNat 8 n :=
      Memory.read_writeBytes_inside hwf hlen hk
    rw [hread, BitVec.toNat_ofNat, Nat.mod_eq_of_lt hn]
  exact ⟨hdigit 0 _ rfl (by omega), hdigit 1 _ rfl (by omega), hdigit 2 _ rfl (by omega)⟩

theorem State.readByte_storedDigits_outside (ha : a < s.i.toNat ∨ s.i.toNat + 2 < a) :
    (s.storedDigits x).readByte a = s.readByte a := by
  refine Memory.read_writeBytes_outside s.mem _ ?_
  rw [decimalDigits_length]
  omega

end

/-- Settles O42: the instruction is the block store of the three digits. -/
theorem decimalDigitsAreStored : Obligations.DecimalDigitsAreStored := by
  refine fun x => ⟨decodeWord_ofNat (ofNat_eq_formatXkk_opcode 0xF x 0x33) rfl, fun s hwf hfits => ?_⟩
  obtain ⟨hhundreds, htens, hones⟩ := State.readByte_storedDigits (x := x) hwf hfits
  exact ⟨_, exec_ldB x hfits, hhundreds, htens, hones, s.setMem_writeBytes_frame _ (decimalDigits (s.reg x))⟩

/-- Settles O43: the instruction is the block store of the registers up to `x`. -/
theorem blockStoreWritesRegisters : Obligations.BlockStoreWritesRegisters := by
  refine fun x => ⟨decodeWord_ofNat (ofNat_eq_formatXkk_opcode 0xF x 0x55) rfl, fun s hwf hfits => ?_⟩
  exact ⟨_, exec_storeRegs hfits, fun r hr => State.readByte_storedRegs hwf hfits hr rfl, s.storeRegs_frame x⟩

/-- A register the block load reaches holds the byte at its offset. -/
theorem State.reg_setRegs_loadAscending (s : State) (a : Nat) {x r : Reg} (hr : r ≤ x) :
    (s.setRegs (loadAscending s.mem a (x.val + 1) s.v)).reg r = s.readByte (a + r.val) := by
  rw [State.reg_setRegs, loadAscending_getElem, if_pos (Nat.lt_succ_of_le hr), State.readByte_def]

/-- Settles O44: the instruction is the block load of the registers up to `x`. -/
theorem blockLoadReadsRegisters : Obligations.BlockLoadReadsRegisters := by
  refine fun x => ⟨decodeWord_ofNat (ofNat_eq_formatXkk_opcode 0xF x 0x65) rfl, fun s hfits => ?_⟩
  exact ⟨_, exec_loadRegs hfits, fun r hr => s.reg_setRegs_loadAscending _ hr, s.setRegs_loadAscending_frame _ x⟩

/-- Settles O46: the load reads the stored bytes back, whatever the registers hold by then. -/
theorem storeThenLoadRestoresRegisters : Obligations.StoreThenLoadRestoresRegisters := by
  intro x s hwf hfits
  refine ⟨s.storedRegs x, exec_storeRegs hfits, fun w => ?_⟩
  refine ⟨_, exec_loadRegs (s := { s.storedRegs x with v := w }) hfits, fun r hr => ?_⟩
  exact (State.reg_setRegs_loadAscending _ _ hr).trans (State.readByte_storedRegs hwf hfits hr rfl)

/-! ### What the next fetch reads after a store (`20_memory.md` R75) -/

theorem State.fetchWord_toNat (s : State) :
    s.fetchWord.toNat = (s.readByte s.pc.toNat).toNat * 256 + (s.readByte (s.pc.toNat + 1)).toNat :=
  wordOfBytes_toNat ..

/-- The fetch after a replacement of memory reads the new bytes at the same `PC`. -/
theorem State.fetchWord_setMem_toNat {s : State} {m : Memory} {hi lo : Nat}
    (hhi : ((s.setMem m).readByte s.pc.toNat).toNat = hi)
    (hlo : ((s.setMem m).readByte (s.pc.toNat + 1)).toNat = lo) : (s.setMem m).fetchWord.toNat = hi * 256 + lo := by
  rw [← hhi, ← hlo]
  exact State.fetchWord_toNat _

/-- A store into neither byte of the word at `PC`. -/
theorem State.fetchWord_setMem_of_bytes {s : State} {m : Memory}
    (hhi : (s.setMem m).readByte s.pc.toNat = s.readByte s.pc.toNat)
    (hlo : (s.setMem m).readByte (s.pc.toNat + 1) = s.readByte (s.pc.toNat + 1)) :
    (s.setMem m).fetchWord = s.fetchWord :=
  congrArg₂ wordOfBytes hhi hlo

section
variable {x : Reg} {s : State} (hwf : s.mem.wf = true)
include hwf

/-- After a store by `Fx55`, by which bytes of the word at `PC` it covers. -/
theorem storedRegs_fetchWord (hfits : s.i.toNat + x.val ≤ 4095) :
    (∀ r r' : Reg, r' ≤ x → r'.val = r.val + 1 → s.pc.toNat = s.i.toNat + r.val →
      (s.storedRegs x).fetchWord.toNat = (s.reg r).toNat * 256 + (s.reg r').toNat) ∧
    (s.pc.toNat = s.i.toNat + x.val →
      (s.storedRegs x).fetchWord.toNat = (s.reg x).toNat * 256 + (s.readByte (s.pc.toNat + 1)).toNat) ∧
    (s.pc.toNat + 1 = s.i.toNat →
      (s.storedRegs x).fetchWord.toNat = (s.readByte s.pc.toNat).toNat * 256 + (s.reg 0).toNat) ∧
    (s.pc.toNat + 1 < s.i.toNat ∨ s.i.toNat + x.val < s.pc.toNat → (s.storedRegs x).fetchWord = s.fetchWord) := by
  have hin : ∀ (a : Nat) (r : Reg), r ≤ x → a = s.i.toNat + r.val → (s.storedRegs x).readByte a = s.reg r :=
    fun _ _ => State.readByte_storedRegs hwf hfits
  have hout : ∀ a, a < s.i.toNat ∨ s.i.toNat + x.val < a → (s.storedRegs x).readByte a = s.readByte a :=
    fun _ => State.readByte_storedRegs_outside
  refine ⟨fun r r' hr' hsucc hpc => ?both, fun hpc => ?high, fun hpc => ?low, fun hpc => ?neither⟩
  case both =>
    have hr : r ≤ x := le_trans (Fin.le_def.mpr (by omega)) hr'
    exact State.fetchWord_setMem_toNat (congrArg _ (hin _ r hr hpc)) (congrArg _ (hin _ r' hr' (by omega)))
  case high =>
    exact State.fetchWord_setMem_toNat (congrArg _ (hin _ x le_rfl hpc)) (congrArg _ (hout _ (by omega)))
  case low =>
    exact State.fetchWord_setMem_toNat (congrArg _ (hout _ (by omega))) (congrArg _ (hin _ 0 (Fin.zero_le x) hpc))
  case neither =>
    exact State.fetchWord_setMem_of_bytes (hout _ (by omega)) (hout _ (by omega))

/-- After a store by `Fx33`, by which bytes of the word at `PC` it covers. -/
theorem storedDigits_fetchWord (hfits : s.i.toNat + 2 ≤ 4095) :
    (s.pc.toNat = s.i.toNat →
      (s.storedDigits x).fetchWord.toNat = (s.reg x).toNat / 100 * 256 + (s.reg x).toNat / 10 % 10) ∧
    (s.pc.toNat = s.i.toNat + 1 →
      (s.storedDigits x).fetchWord.toNat = (s.reg x).toNat / 10 % 10 * 256 + (s.reg x).toNat % 10) ∧
    (s.pc.toNat = s.i.toNat + 2 →
      (s.storedDigits x).fetchWord.toNat = (s.reg x).toNat % 10 * 256 + (s.readByte (s.pc.toNat + 1)).toNat) ∧
    (s.pc.toNat + 1 = s.i.toNat →
      (s.storedDigits x).fetchWord.toNat = (s.readByte s.pc.toNat).toNat * 256 + (s.reg x).toNat / 100) ∧
    (s.pc.toNat + 1 < s.i.toNat ∨ s.i.toNat + 2 < s.pc.toNat → (s.storedDigits x).fetchWord = s.fetchWord) := by
  obtain ⟨hhundreds, htens, hones⟩ := State.readByte_storedDigits (x := x) hwf hfits
  have hout : ∀ a, a < s.i.toNat ∨ s.i.toNat + 2 < a → (s.storedDigits x).readByte a = s.readByte a :=
    fun _ => State.readByte_storedDigits_outside
  refine ⟨fun hpc => ?hundreds, fun hpc => ?tens, fun hpc => ?ones, fun hpc => ?before, fun hpc => ?neither⟩
  case hundreds => exact State.fetchWord_setMem_toNat (by rw [hpc]; exact hhundreds) (by rw [hpc]; exact htens)
  case tens => exact State.fetchWord_setMem_toNat (by rw [hpc]; exact htens) (by rw [hpc]; exact hones)
  case ones => exact State.fetchWord_setMem_toNat (by rw [hpc]; exact hones) (congrArg _ (hout _ (by omega)))
  case before => exact State.fetchWord_setMem_toNat (congrArg _ (hout _ (by omega))) (by rw [hpc]; exact hhundreds)
  case neither => exact State.fetchWord_setMem_of_bytes (hout _ (by omega)) (hout _ (by omega))

end

/-- Settles O49: both stores leave `PC` where it was, and the fetch reads what they left at its two bytes. -/
theorem storeIsSeenByNextFetch : Obligations.StoreIsSeenByNextFetch :=
  fun x s hwf _ =>
    ⟨fun hfits => ⟨s.storedRegs x, exec_storeRegs hfits, rfl, storedRegs_fetchWord hwf hfits⟩,
      fun hfits => ⟨s.storedDigits x, exec_ldB x hfits, rfl, storedDigits_fetchWord hwf hfits⟩⟩

/-! ### Loading a program (`70_reset_and_hazards.md` R293) -/

/-- Settles O56: the load is a block store at 0x200, inside memory exactly where it is not refused. -/
theorem loadProgramCopiesBytes : Obligations.LoadProgramCopiesBytes := by
  refine fun s bytes hwf => ⟨fun hlen => ⟨_, s.loadProgram_fits hlen, fun k hk => ?_, fun a ha => ?_, rfl⟩,
    s.loadProgram_tooLong⟩
  · refine Memory.read_writeBytes_inside hwf ?_ ?_
    · rw [Config.memSize]
      omega
    · rw [List.getElem?_eq_getElem hk, List.getD_eq_getElem _ _ hk]
  · exact Memory.read_writeBytes_outside s.mem bytes (by omega)

end Sys2Proof.Machine

namespace Sys2Proof.Machine

/-! ### The step of a running core (`40_step_driver.md` R120 to R127) -/

theorem tickTimer_eq (b : Byte) : tickTimer b = if b = 0 then 0 else b - 1 := by
  revert b
  decide

/-- The end of a step, written out: the latch alone, or the tick. -/
theorem State.commit_eq (s t : State) : s.commit t =
    if t.flt then { s with flt := t.flt, fcause := t.fcause, fval := t.fval, fpc := t.fpc }
    else { t with dt := if t.dt = 0 then 0 else t.dt - 1, st := if t.st = 0 then 0 else t.st - 1 } := by
  rw [State.commit, State.tick, tickTimer_eq, tickTimer_eq]
  rfl

/-- Settles O1: the two bytes decode as the fetched word does, and the step commits what that instruction answers. -/
theorem stepRunsDecodedInstruction : Obligations.StepRunsDecodedInstruction := by
  intro s i hs hpc hdecode
  have hi : decodeWord s.fetchWord = i := by
    rw [decodeBytes_cons, Except.ok.injEq, Prod.mk.injEq] at hdecode
    exact hdecode.1
  obtain ⟨t, ht⟩ := exec_answers_next i s.fetched
  refine ⟨t, ht, ?_⟩
  rw [step_exec s hs (s.fetchInRange_iff.mpr hpc) (hi ▸ ht), State.commit_eq]

/-- Settles O3: the step is the identity on a halted core, the events that are not `reset` write memory or a key, and
`reset` clears the latch. -/
theorem haltedCoreStaysHaltedUntilReset : Obligations.HaltedCoreStaysHaltedUntilReset := by
  intro s hs
  refine ⟨step_halted s hs, fun e t he h => ?_, fun k b => ⟨_, rfl, Vector.getElem_set_self _⟩,
    ⟨_, rfl, rfl, rfl, rfl, rfl⟩⟩
  cases e with
  | reset => exact absurd rfl he
  | loadProgram bytes =>
    by_cases hlen : bytes.length ≤ 3584
    · cases (s.loadProgram_fits hlen).symm.trans h
      exact ⟨hs, rfl, rfl, rfl, rfl, rfl⟩
    · cases (s.loadProgram_tooLong (Nat.not_le.mp hlen)).symm.trans h
  | setKey k b =>
    cases h
    exact ⟨hs, rfl, rfl, rfl, rfl, rfl⟩
  | step =>
    cases (step_halted s hs).symm.trans h
    exact ⟨hs, rfl, rfl, rfl, rfl, rfl⟩

/-- Settles O4: above the last fetchable address the step is the fetch's fault, whose value is the whole `PC`. -/
theorem fetchAboveMemoryFaults : Obligations.FetchAboveMemoryFaults := by
  intro s hs hpc
  have hval : BitVec.ofNat 16 (s.pc.toNat % 65536) = s.pc := by
    rw [Nat.mod_eq_of_lt s.pc.isLt, BitVec.ofNat_toNat, BitVec.setWidth_eq]
  rw [step_fetchOob s hs (s.fetchOutOfRange_iff.mpr hpc), raiseFault, hval]
  rfl

theorem State.tick_frame (s : State) : Frame { dt := true, st := true } s s.tick :=
  { Frame.refl {} s with
    dt := nofun
    st := nofun }

/-- Settles O45: the no-op answers the state it was given, so its step is the fetch and the tick. -/
theorem noOpOnlyAdvancesAndTicks : Obligations.NoOpOnlyAdvancesAndTicks := by
  refine fun sel s => ⟨exec_nop sel s, fun hs hpc hi => ?_⟩
  refine ⟨s.fetched.tick, step_ticks hs hpc hi (exec_nop sel _) hs, ?_, tickTimer_toNat _, tickTimer_toNat _, rfl, ?_⟩
  · rw [State.tick_pc, State.fetched_pc]
    bv_omega
  · exact (State.setPc_frame { s with ir := s.fetchWord } (s.pc + 2)).trans s.fetched.tick_frame

/-- Settles O50: the jump sets `PC` back to where it stood and the tick leaves timers of 0 alone, and no part of being final
reads `IR`. -/
theorem finalStateStaysFinal : Obligations.FinalStateStaysFinal := by
  intro s hfinal
  obtain ⟨hs, hdt, hst, hpc, nnn, hi, htarget⟩ := id hfinal
  refine ⟨_, ?_, rfl, hfinal⟩
  have htick : (s.fetched.setPc (zextAddr nnn)).tick = { s with ir := s.fetchWord } := by
    simp [State.tick, State.setPc, State.fetched, tickTimer, htarget, hdt, hst]
  rw [← htick]
  exact step_ticks hs hpc hi (exec_jp nnn _) hs

/-! ### Reset and the run with no program (`70_reset_and_hazards.md` R290, R292) -/

theorem unlistedByte_font {k : Nat} (h : k < 80) : unlistedByte (0x50 + k) = Config.font k := by
  rw [unlistedByte, if_pos (by simp only [Config.fontBase, Config.fontSize]; omega), Config.fontBase,
    Nat.add_sub_cancel_left]

theorem unlistedByte_zero {a : Nat} (h : ¬ (0x50 ≤ a ∧ a < 0xA0)) : unlistedByte a = 0 := if_neg h

/-- Settles O18: each value is the one the reset state lists; memory, which lists nothing, reads as its reset contents. -/
theorem resetLeavesTheTabledValues : Obligations.ResetLeavesTheTabledValues := by
  exact fun s => ⟨s.hostReset, rfl, fun _ => Vector.getElem_replicate _, rfl, rfl, fun _ => Vector.getElem_replicate _,
    rfl, rfl, rfl, fun _ => Vector.getElem_replicate _, rfl, blankDisplay_cell, fun _ hk => unlistedByte_font hk,
    fun _ _ ha => unlistedByte_zero ha, rfl, rfl, rfl, rfl, rfl⟩

/-- The unloaded core after `k` steps from reset: nothing changed but `PC`. -/
def unloadedAfter (k : Nat) : State := { State.reset with pc := BitVec.ofNat 16 (0x200 + 2 * k) }

theorem unloadedAfter_pc {k : Nat} (h : k ≤ 1792) : (unloadedAfter k).pc.toNat = 0x200 + 2 * k := by
  rw [unloadedAfter, BitVec.toNat_ofNat]
  omega

/-- Outside the font an unloaded core fetches 0x0000. -/
theorem unloadedAfter_fetchWord {k : Nat} (h : k ≤ 1792) : (unloadedAfter k).fetchWord = 0 := by
  have hbyte : ∀ a, 0x200 ≤ a → (unloadedAfter k).readByte a = 0 := fun a ha => unlistedByte_zero (by omega)
  have hpc := unloadedAfter_pc h
  rw [State.fetchWord, hbyte _ (by omega), hbyte _ (by omega)]
  rfl

/-- The word 0x0000 is `00E0`. -/
theorem unloadedAfter_decodes {k : Nat} (h : k ≤ 1792) : decodeWord (unloadedAfter k).fetchWord = .cls := by
  rw [unloadedAfter_fetchWord h]
  rfl

/-- Below 0x1000 the step clears a display that is already clear, and advances. -/
theorem step_unloadedAfter {k : Nat} (h : k < 1792) : step (unloadedAfter k) = .next (unloadedAfter (k + 1)) := by
  have hpc := unloadedAfter_pc h.le
  have hfetched : ((unloadedAfter k).fetched.setFb blankDisplay).tick = unloadedAfter (k + 1) := by
    have hadvance : (unloadedAfter k).pc + 2 = (unloadedAfter (k + 1)).pc := (BitVec.ofNat_add (0x200 + 2 * k) 2).symm
    rw [State.fetched, unloadedAfter_fetchWord h.le, hadvance]
    rfl
  rw [← hfetched]
  exact step_ticks rfl (by omega) (unloadedAfter_decodes h.le) (exec_cls _) rfl

/-- A step after a run. -/
theorem stepsTo_succ {k : Nat} {s t u : State} (h : stepsTo k s t) (hstep : step t = .next u) : stepsTo (k + 1) s u := by
  induction k generalizing s with
  | zero =>
    cases h
    exact ⟨u, hstep, rfl⟩
  | succ k ih =>
    obtain ⟨r, hr, hrun⟩ := h
    exact ⟨r, hr, ih hrun⟩

theorem stepsTo_unloadedAfter {k : Nat} (h : k ≤ 1792) : stepsTo k State.reset (unloadedAfter k) := by
  induction k with
  | zero => rfl
  | succ k ih => exact stepsTo_succ (ih (by omega)) (step_unloadedAfter h)

/-- Settles O51: 1792 steps take `PC` from 0x200 to 0x1000 two by two, where the fetch faults. -/
theorem unloadedCoreRunsToFetchFault : Obligations.UnloadedCoreRunsToFetchFault := by
  refine ⟨fun k hk => ?_, ?_⟩
  · exact ⟨unloadedAfter k, stepsTo_unloadedAfter hk, rfl, unloadedAfter_pc hk, blankDisplay_cell, rfl,
      fun _ => unloadedAfter_decodes hk⟩
  · have hfault := fetchAboveMemoryFaults (unloadedAfter 1792) rfl (by rw [unloadedAfter_pc le_rfl]; decide)
    exact ⟨_, stepsTo_succ (stepsTo_unloadedAfter le_rfl) hfault, rfl, rfl, rfl, rfl⟩

/-! ### The keypad and the observations (`00_scope.md` R10, R12, `10_state.md` R31 to R36) -/

/-- The exported frame buffer is the display's rows one after another, each cell a pixel. -/
theorem State.frameBuffer_eq_toList (s : State) :
    s.frameBuffer = (s.fb.flatMap (fun row => row.map pixelOf)).toList := by
  simp [State.frameBuffer, Vector.flatMap, Vector.toList, Array.toList_flatMap]

theorem State.frameBuffer_getElem? (s : State) (r : Fin 32) (c : Fin 64) :
    s.frameBuffer[r.val * 64 + c.val]? = some (pixelOf (s.cell r c)) := by
  have hindex : r.val * 64 + c.val < 32 * 64 := by omega
  have hrow : (r.val * 64 + c.val) / 64 = r.val := by omega
  have hcol : (r.val * 64 + c.val) % 64 = c.val := by omega
  rw [State.frameBuffer_eq_toList, Vector.getElem?_toList, Vector.getElem?_eq_getElem hindex, Vector.getElem_flatMap]
  simp only [hrow, hcol, Vector.getElem_map, State.cell_def, Fin.getElem_fin]

/-- Settles O57: a key is one entry of the keypad vector, and each observation is read off the field it reports. -/
theorem keypadAndObservations : Obligations.KeypadAndObservations := by
  intro s
  refine ⟨fun k b => ⟨s.setKey k b, rfl, ?key, fun j hj => ?otherKey, rfl⟩, ?length, s.frameBuffer_getElem?, ?sound,
    fun h => ?faulted, fun h => ?running⟩
  case key => exact Vector.getElem_set_self _
  case otherKey => exact Vector.getElem_set_ne k.isLt j.isLt fun e => hj (Fin.ext e.symm)
  case length => rw [State.frameBuffer_eq_toList, Vector.length_toList]
  case sound => exact decide_eq_true_iff
  case faulted => rw [State.faultReport, if_pos h]
  case running => rw [State.faultReport, if_neg (Bool.eq_false_iff.mp h)]

end Sys2Proof.Machine
